-- ==== Sys2Proof/Word.lean ====
section
/-! DEFINITION. The plain data types of the block: bytes, access words and poll delays. -/

namespace Sys2Proof

/-- One byte: every register and every port access is 8 bits wide (00_scope.md R6, 20_memory.md R62). -/
abbrev Byte := BitVec 8

/-- The 4-bit port-access word, bit 3 `w` and bits 2:0 `off` (30_encoding.md R90). -/
abbrev AccessWord := BitVec 4

/-- A poll delay whose value is at least 1 and fits a `u32` (00_scope.md R7, 60_exceptions.md R265).
It is held as the number of polls it adds, so that the floor of 1 holds by construction. -/
abbrev Delay := Fin 4294967295

/-- The value of a delay: 1 "means 'no added delay'" (10_state.md R37). -/
def Delay.polls (d : Delay) : Nat := d.val + 1

/-- A `u32` count whose value may be 0 (00_scope.md R7, `HOLD_TYPE_I`). -/
abbrev Count := Fin 4294967296

end Sys2Proof
end

