-- ==== Sys2Proof/Config.lean ====
section
/-! DEFINITION. What an implementation fixes and the spec leaves open (00_scope.md R7), and the free values.
None of them has a body, so no proof can see its value. -/

namespace Sys2Proof

/-- `BYTE_DELAY >= 1` (00_scope.md R7, 92 D8). -/
opaque Config.byteDelay : Delay

/-- `READY_DELAY_IOERR >= 1` (00_scope.md R7, 92 D8). -/
opaque Config.readyDelayIoErr : Delay

/-- `HOLD_FORCE >= 1` (00_scope.md R7, 92 D8). -/
opaque Config.holdForce : Delay

/-- `HOLD_TYPE_I >= 0` (00_scope.md R7, 92 D12). -/
opaque Config.holdTypeI : Count

/-- `INDEX_PERIOD >= 1` (00_scope.md R7, 92 D47). -/
opaque Config.indexPeriod : Delay

/-- `ERASE_BYTE`, "any `u8`" (00_scope.md R7, 92 D48). -/
opaque Config.eraseByte : Byte

/-- `RA_CRC(track, side, sector, size_code)`, "any total function to `u16`" (00_scope.md R7, 43_type3_commands.md R170). -/
opaque Config.raCrc : Byte → Byte → Byte → Byte → BitVec 16

/-- Whether the n-th image access fails by the host's draw, where the state holds no settled draw for it
(20_memory.md R66, R67; 93 U3). A free value. -/
opaque Config.hostFails : Nat → Bool

/-- Byte i left in the range of the n-th image access when it is a write that fails
("a model admits any bytes there", 20_memory.md R67; 93 U2). A free value. -/
opaque Config.tornByte : Nat → Nat → Byte

/-- The size code of a sector size that no mount may supply (43_type3_commands.md R171 gives none). A free value. -/
opaque Config.otherSizeCode : Nat → Byte

end Sys2Proof
end

