-- ==== Sys2Proof/Syntax.lean ====
section
/-! DEFINITION. The instructions (one constructor per row of spec/opcode_table.json), the two encoding layers,
and the events that reach the block from outside. -/

namespace Sys2Proof

/-- The opcode table: sixteen commands (40_command_decoder.md R115) and twelve port accesses
(46_status_and_ports.md R220, R221). `load` is LoadHead, bit 3 of a Type I byte; `side` is bit 1 of a
Type II or III byte (30_encoding.md R97). Ignored bits are no operand (R100). -/
inductive Instr where
  | restore (load : Bool)
  | seek (load : Bool)
  | step (load : Bool)
  | stepUpdate (load : Bool)
  | stepIn (load : Bool)
  | stepInUpdate (load : Bool)
  | stepOut (load : Bool)
  | stepOutUpdate (load : Bool)
  | readSector (side : Bool)
  | readSectorMulti (side : Bool)
  | writeSector (side : Bool)
  | writeSectorMulti (side : Bool)
  | readAddress (side : Bool)
  | readTrack (side : Bool)
  | writeTrack (side : Bool)
  | forceInterrupt
  | readStatus
  | writeCommand (c : Byte)
  | readTrackRegister
  | writeTrackRegister (v : Byte)
  | readSectorRegister
  | writeSectorRegister (v : Byte)
  | readData
  | writeData (v : Byte)
  | readDrivePort
  | writeDriveSelect (v : Byte)
  | readUnmapped
  | writeUnmapped (v : Byte)
  deriving DecidableEq, Repr

/-- The sixteen commands of the inner layer: what a byte written to offset 0 decodes to (30_encoding.md R99). -/
inductive Command where
  | restore (load : Bool)
  | seek (load : Bool)
  | step (load : Bool)
  | stepUpdate (load : Bool)
  | stepIn (load : Bool)
  | stepInUpdate (load : Bool)
  | stepOut (load : Bool)
  | stepOutUpdate (load : Bool)
  | readSector (side : Bool)
  | readSectorMulti (side : Bool)
  | writeSector (side : Bool)
  | writeSectorMulti (side : Bool)
  | readAddress (side : Bool)
  | readTrack (side : Bool)
  | writeTrack (side : Bool)
  | forceInterrupt
  deriving DecidableEq, Repr

/-- One encoded instruction. `access` is the outer layer: an access word and the data byte, which only a write
carries (30_encoding.md R90). `command` is the inner layer, the trace notation's `CMD` line: "a write to
offset 0 of the command byte" (R91, R103). -/
inductive FetchWord where
  | access (word : AccessWord) (data : Byte)
  | command (c : Byte)
  deriving DecidableEq, Repr

/-- The descriptor a mount supplies for a drive slot (60_exceptions.md R271, 10_state.md R30). -/
structure Descriptor where
  heads : Nat
  tracks : Nat
  sectorsPerTrack : Nat
  firstSectorNumber : Nat
  sectorSize : Nat
  interleaved : Bool
  sidesSwapped : Bool
  reverseSide0 : Bool
  reverseSide1 : Bool
  writeProtect : Bool
  imagePath : Option String
  deriving DecidableEq, Repr

/-- The external events that change the block (00_scope.md R2): a port access by the guest, and the host's
actions between two port accesses (60_exceptions.md R271, R272; 70_reset_and_hazards.md R283). -/
inductive Event where
  /-- One port access of the guest. -/
  | guest (w : FetchWord)
  /-- The host replaces the descriptor of a slot (R271). -/
  | mount (slot : Fin 4) (d : Descriptor)
  /-- The host sets `image_path = None` (10_state.md R34, R272). -/
  | unmount (slot : Fin 4)
  /-- The host gives a file new contents, or removes it (R271, 20_memory.md R68). -/
  | hostFile (path : String) (contents : Option (List Byte))
  /-- The hard reset (R283). -/
  | hardReset
  deriving DecidableEq, Repr

end Sys2Proof
end

