-- ==== Sys2Proof/WellFormed.lean ====
section
/-! DEFINITION. Well-formedness: of an instruction (nothing to check, its operand types admit only what the encoding
admits) and of a descriptor that a mount supplies. -/

namespace Sys2Proof

/-- Every term of `Instr` is well formed: each operand is one bit or one byte (30_encoding.md R97, R90). -/
def Instr.wellFormed : Instr → Bool
  | .restore _ | .seek _ | .step _ | .stepUpdate _ | .stepIn _ | .stepInUpdate _ | .stepOut _ | .stepOutUpdate _
  | .readSector _ | .readSectorMulti _ | .writeSector _ | .writeSectorMulti _
  | .readAddress _ | .readTrack _ | .writeTrack _ | .forceInterrupt
  | .readStatus | .writeCommand _ | .readTrackRegister | .writeTrackRegister _
  | .readSectorRegister | .writeSectorRegister _ | .readData | .writeData _
  | .readDrivePort | .writeDriveSelect _ | .readUnmapped | .writeUnmapped _ => true

/-- The mount preconditions: "`sector_size in {128, 256, 512, 1024}`, `sectors_per_track >= 1`, `tracks >= 1`"
(60_exceptions.md R271), and the field widths `u8` and `u16` of 00_scope.md R8. -/
def Descriptor.wellFormed (d : Descriptor) : Bool :=
  (d.sectorSize == 128 || d.sectorSize == 256 || d.sectorSize == 512 || d.sectorSize == 1024)
    && decide (1 ≤ d.sectorsPerTrack) && decide (1 ≤ d.tracks)
    && decide (d.heads < 256) && decide (d.tracks < 65536)
    && decide (d.sectorsPerTrack < 65536) && decide (d.firstSectorNumber < 65536)

end Sys2Proof
end

