-- ==== Sys2Proof/Decode.lean ====
section
/-! DEFINITION. The decoder of both encoding layers (30_encoding.md), total on every word, and the encoder written
from the same tables. The numbering of spec/opcode_table.json is read by `tableWord`. -/

namespace Sys2Proof

/-- Bit 3 of a command byte, LoadHead (30_encoding.md R97). -/
def loadHeadBit (c : Byte) : Bool := c.getLsbD 3

/-- Bit 1 of a command byte, the side: "`side = bit ? 1 : 0`" (30_encoding.md R97). -/
def sideBit (c : Byte) : Bool := c.getLsbD 1

/-- The top nibble of a command byte, which "selects command class" (30_encoding.md R91). -/
def topNibble (c : Byte) : Nat := c.toNat / 16

/-- The decode function of the inner layer, total on all 256 command bytes (30_encoding.md R99). -/
def decodeCommand (c : Byte) : Command :=
  match topNibble c with
  | 0 => .restore (loadHeadBit c)
  | 1 => .seek (loadHeadBit c)
  | 2 => .step (loadHeadBit c)
  | 3 => .stepUpdate (loadHeadBit c)
  | 4 => .stepIn (loadHeadBit c)
  | 5 => .stepInUpdate (loadHeadBit c)
  | 6 => .stepOut (loadHeadBit c)
  | 7 => .stepOutUpdate (loadHeadBit c)
  | 8 => .readSector (sideBit c)
  | 9 => .readSectorMulti (sideBit c)
  | 10 => .writeSector (sideBit c)
  | 11 => .writeSectorMulti (sideBit c)
  | 12 => .readAddress (sideBit c)
  | 13 => .forceInterrupt
  | 14 => .readTrack (sideBit c)
  | _ => .writeTrack (sideBit c)

/-- A command of the inner layer as the instruction of its opcode-table row. -/
def Command.toInstr : Command → Instr
  | .restore h => .restore h
  | .seek h => .seek h
  | .step h => .step h
  | .stepUpdate h => .stepUpdate h
  | .stepIn h => .stepIn h
  | .stepInUpdate h => .stepInUpdate h
  | .stepOut h => .stepOut h
  | .stepOutUpdate h => .stepOutUpdate h
  | .readSector b => .readSector b
  | .readSectorMulti b => .readSectorMulti b
  | .writeSector b => .writeSector b
  | .writeSectorMulti b => .writeSectorMulti b
  | .readAddress b => .readAddress b
  | .readTrack b => .readTrack b
  | .writeTrack b => .writeTrack b
  | .forceInterrupt => .forceInterrupt

/-- The decode function of the outer layer: bit 3 is `w`, bits 2:0 the offset; offsets 4 and 5 are aliases, and so
are the unmapped 6 and 7 (30_encoding.md R90, 20_memory.md R61, 46_status_and_ports.md R220, R221). A read carries no
data byte. -/
def decodeAccess (a : AccessWord) (data : Byte) : Instr :=
  match a.toNat with
  | 0 => .readStatus
  | 1 => .readTrackRegister
  | 2 => .readSectorRegister
  | 3 => .readData
  | 4 => .readDrivePort
  | 5 => .readDrivePort
  | 6 => .readUnmapped
  | 7 => .readUnmapped
  | 8 => .writeCommand data
  | 9 => .writeTrackRegister data
  | 10 => .writeSectorRegister data
  | 11 => .writeData data
  | 12 => .writeDriveSelect data
  | 13 => .writeDriveSelect data
  | _ => .writeUnmapped data

/-- The decoder, total on every encoded instruction: no access word and no command byte is illegal
(30_encoding.md R99, R101). -/
def decode : FetchWord → Instr
  | .access a data => decodeAccess a data
  | .command c => (decodeCommand c).toInstr

/-- Why a numbered table word is no encoded instruction. -/
inductive DecodeError where
  /-- The row has no bits, or more bits than an access word's byte and a data byte. -/
  | noSuchLength
  /-- The value does not fit the number of bits given. -/
  | valueTooWide
  /-- A two-byte word whose first byte is no access word: its bits 7:4 are not zero. -/
  | noSuchAccessWord
  deriving DecidableEq, Repr

/-- The encoded instruction whose bits, numbered as spec/opcode_table.json numbers them, are `w`.
A row of up to 8 bits is an access word where bits 7:4 are zero (the outer layer comes first; the data byte of a
write lies above the row's bits and is zero) and a command byte otherwise; a row of up to 16 bits is an access word's
byte with the data byte in bits 15:8. Log entry 3 says what this leaves ambiguous. -/
def tableWord (nbits w : Nat) : Except DecodeError FetchWord :=
  if nbits = 0 ∨ 16 < nbits then .error .noSuchLength
  else if 2 ^ nbits ≤ w then .error .valueTooWide
  else if nbits ≤ 8 then
    if w < 16 then .ok (.access (BitVec.ofNat 4 w) 0) else .ok (.command (BitVec.ofNat 8 w))
  else if w % 256 < 16 then .ok (.access (BitVec.ofNat 4 (w % 256)) (BitVec.ofNat 8 (w / 256)))
  else .error .noSuchAccessWord

/-- The instruction the decoder reads from a numbered table word. -/
def decodeTableWord (nbits w : Nat) : Option Instr :=
  match tableWord nbits w with
  | .ok f => some (decode f)
  | .error _ => none

/-- A Type I command byte with every ignored bit 0 (30_encoding.md R92). -/
def typeIByte (base : Byte) (load : Bool) : Byte := base ||| (if load then 0x08#8 else 0x00#8)

/-- A Type II or Type III command byte with every ignored bit 0 (30_encoding.md R93, R94). -/
def sideByte (base : Byte) (side : Bool) : Byte := base ||| (if side then 0x02#8 else 0x00#8)

/-- The command byte of a command, with every ignored bit 0 (30_encoding.md R92 to R95, R103). -/
def encodeCommand : Command → Byte
  | .restore h => typeIByte 0x00#8 h
  | .seek h => typeIByte 0x10#8 h
  | .step h => typeIByte 0x20#8 h
  | .stepUpdate h => typeIByte 0x30#8 h
  | .stepIn h => typeIByte 0x40#8 h
  | .stepInUpdate h => typeIByte 0x50#8 h
  | .stepOut h => typeIByte 0x60#8 h
  | .stepOutUpdate h => typeIByte 0x70#8 h
  | .readSector b => sideByte 0x80#8 b
  | .readSectorMulti b => sideByte 0x90#8 b
  | .writeSector b => sideByte 0xA0#8 b
  | .writeSectorMulti b => sideByte 0xB0#8 b
  | .readAddress b => sideByte 0xC0#8 b
  | .forceInterrupt => 0xD0#8
  | .readTrack b => sideByte 0xE0#8 b
  | .writeTrack b => sideByte 0xF0#8 b

/-- The encoder: a command as its command byte, a port access as its access word and data byte. Of two aliased
offsets it writes the lower one. -/
def encode : Instr → FetchWord
  | .restore h => .command (encodeCommand (.restore h))
  | .seek h => .command (encodeCommand (.seek h))
  | .step h => .command (encodeCommand (.step h))
  | .stepUpdate h => .command (encodeCommand (.stepUpdate h))
  | .stepIn h => .command (encodeCommand (.stepIn h))
  | .stepInUpdate h => .command (encodeCommand (.stepInUpdate h))
  | .stepOut h => .command (encodeCommand (.stepOut h))
  | .stepOutUpdate h => .command (encodeCommand (.stepOutUpdate h))
  | .readSector b => .command (encodeCommand (.readSector b))
  | .readSectorMulti b => .command (encodeCommand (.readSectorMulti b))
  | .writeSector b => .command (encodeCommand (.writeSector b))
  | .writeSectorMulti b => .command (encodeCommand (.writeSectorMulti b))
  | .readAddress b => .command (encodeCommand (.readAddress b))
  | .readTrack b => .command (encodeCommand (.readTrack b))
  | .writeTrack b => .command (encodeCommand (.writeTrack b))
  | .forceInterrupt => .command (encodeCommand .forceInterrupt)
  | .readStatus => .access 0x0#4 0
  | .readTrackRegister => .access 0x1#4 0
  | .readSectorRegister => .access 0x2#4 0
  | .readData => .access 0x3#4 0
  | .readDrivePort => .access 0x4#4 0
  | .readUnmapped => .access 0x6#4 0
  | .writeCommand c => .access 0x8#4 c
  | .writeTrackRegister v => .access 0x9#4 v
  | .writeSectorRegister v => .access 0xA#4 v
  | .writeData v => .access 0xB#4 v
  | .writeDriveSelect v => .access 0xC#4 v
  | .writeUnmapped v => .access 0xE#4 v

end Sys2Proof
end

