-- ==== Sys2Proof/Machine/State.lean ====
section
/-! DEFINITION. The state of the block (10_state.md), the reasons a step can stop, and the state at system start. -/

namespace Sys2Proof.Machine

/-- `step_direction` (10_state.md R27). -/
inductive StepDirection where
  /-- In, "towards higher track numbers". -/
  | inwards
  /-- Out, "towards track 0". -/
  | outwards
  deriving DecidableEq, Repr

/-- `xfer`, the Transfer Engine's mode (10_state.md R41, 45_transfer_engine.md R200). -/
inductive Xfer where
  /-- `None`: no transfer. -/
  | idle
  /-- `ReadOut`: bytes of the buffer stream out. -/
  | readOut
  /-- `WriteSectorIn`: bytes stream in for a sector write. -/
  | writeSectorIn
  /-- `WriteTrackIn`: bytes stream in for WriteTrack. -/
  | writeTrackIn
  deriving DecidableEq, Repr

/-- The type of a command, as `last_type` holds it (10_state.md R44). -/
inductive CommandType where
  | typeI
  | typeII
  | typeIII
  | typeIV
  deriving DecidableEq, Repr

/-- The diagnostic events (60_exceptions.md R268, 92 D39). -/
inductive LogEvent where
  | droppedWhileBusy
  | unexpectedDataByte
  | unsupportedCommand
  deriving DecidableEq, Repr

/-- The nine indicator booleans, the clear group (10_state.md R28). -/
structure Indicators where
  interruptRequest : Bool
  dataRequest : Bool
  dataLost : Bool
  busy : Bool
  headLoaded : Bool
  crcError : Bool
  seekError : Bool
  recordNotFound : Bool
  writeFailProtected : Bool
  deriving DecidableEq, Repr

/-- One drive slot: the descriptor the host mounted and the head's position (10_state.md R30, R32). -/
structure Drive where
  desc : Descriptor
  currentTrack : Nat
  deriving DecidableEq, Repr

/-- The bytes of one image file: its size, and the cells whose byte is not what an unlisted offset reads as
(20_memory.md R65; log entry 14). -/
structure Memory where
  size : Nat
  cells : List Host.Cell
  deriving DecidableEq, Repr

/-- One image file of the host's file system (20_memory.md R60). -/
structure ImageFile where
  path : String
  mem : Memory
  deriving DecidableEq, Repr

/-- The parameters of 00_scope.md R7 that are plain data (log entry 6). -/
structure Params where
  /-- `BYTE_DELAY`. -/
  byteDelay : Delay
  /-- `READY_DELAY_IOERR`. -/
  readyDelayIoErr : Delay
  /-- `HOLD_FORCE`. -/
  holdForce : Delay
  /-- `HOLD_TYPE_I`. -/
  holdTypeI : Count
  /-- `INDEX_PERIOD`. -/
  indexPeriod : Delay
  /-- `ERASE_BYTE`. -/
  eraseByte : Byte
  /-- `NR_ADDR_FF`. -/
  nrAddrFf : Bool
  deriving DecidableEq, Repr

/-- The state record (10_state.md R20), with the boundary the spec gives the block: its image files, its
parameters, its log, and what arrives from outside. -/
structure State where
  /-- `TR` (R21). -/
  trackReg : Byte
  /-- `SR` (R22). -/
  sectorReg : Byte
  /-- `DR` (R23). -/
  dataReg : Byte
  /-- `side`, true for side 1 (R24). -/
  side : Bool
  /-- `active_drive` (R25). -/
  activeDrive : Option (Fin 4)
  /-- `step_direction` (R27). -/
  stepDirection : StepDirection
  /-- The nine indicator booleans (R28). -/
  flags : Indicators
  /-- `drives[0..3]` (R30). -/
  drives : Vector Drive 4
  /-- `ready_delay` (R37). -/
  readyDelay : Nat
  /-- `busy_delay` (R38). -/
  busyDelay : Nat
  /-- `byte_delay` (R39). -/
  byteDelay : Nat
  /-- `index_pulse_countdown` (R40). -/
  indexCountdown : Nat
  /-- `index_state` (R40). -/
  indexState : Bool
  /-- `xfer` (R41). -/
  xfer : Xfer
  /-- `buf`, `BUF_MAX` bytes (R42). -/
  buf : List Byte
  /-- `position` (R42). -/
  position : Nat
  /-- `used` (R42). -/
  used : Nat
  /-- `ra_counter` (R43). -/
  raCounter : Nat
  /-- `last_type` (R44). -/
  lastType : CommandType
  /-- The image files, in rising order of path (20_memory.md R60; log entry 21). -/
  files : List ImageFile
  /-- The implementation's parameters; no step changes them (00_scope.md R7). -/
  params : Params
  /-- The log events given to the host, newest first (60_exceptions.md R268). -/
  log : List LogEvent
  /-- The byte the last port read gave the guest (60_exceptions.md R272). -/
  lastRead : Option Byte
  /-- The host-failure draws already settled, the next one first (20_memory.md R66, R67). -/
  ioDraws : List Bool
  /-- How many image accesses have been made. -/
  ioCount : Nat
  /-- The events that have arrived and not been taken, oldest first (00_scope.md R2). -/
  pending : List Event
  deriving DecidableEq, Repr

/-- The block has no fault that stops it: "there are no unrecoverable (process-fatal) error states in this
component" (40_command_decoder.md R121), and no exception, trap or abort (60_exceptions.md R250). No definition of
the model raises one, so the type has no constructor. Safe. -/
inductive Fault where
  deriving DecidableEq, Repr

/-- Why a step is refused. -/
inductive Refusal where
  /-- Raised by `exec` for an instruction without a meaning; no instruction is left without one. Safe. -/
  | notModelled (mnemonic : String)
  /-- Raised by `step` for a host mount whose descriptor breaks the preconditions: "a mount violating them is
  refused (no such host step)" (60_exceptions.md R271, 93 U15). Safe. -/
  | mountPrecondition
  deriving DecidableEq, Repr

/-- `BUF_MAX` (00_scope.md R6, 92 D48). -/
def bufMax : Nat := 1024

/-- All nine indicators false (40_command_decoder.md R113). -/
def Indicators.clear : Indicators :=
  { interruptRequest := false, dataRequest := false, dataLost := false, busy := false, headLoaded := false,
    crcError := false, seekError := false, recordNotFound := false, writeFailProtected := false }

/-- A slot no mount has filled: no media (70_reset_and_hazards.md R280), and the smallest geometry a mount may
supply. DESIGN CHOICE, unsafe: the spec gives such a slot no geometry (log entry 12). -/
def Descriptor.unmounted : Descriptor :=
  { heads := 1, tracks := 1, sectorsPerTrack := 1, firstSectorNumber := 0, sectorSize := 128,
    interleaved := false, sidesSwapped := false, reverseSide0 := false, reverseSide1 := false,
    writeProtect := false, imagePath := none }

/-- The parameters of the implementation at hand: the body-less constants of Config, and `NR_ADDR_FF`, which "this
spec sets to `true`" (46_status_and_ports.md R231; log entries 6 and 7). -/
def Params.implementation : Params :=
  { byteDelay := Config.byteDelay, readyDelayIoErr := Config.readyDelayIoErr, holdForce := Config.holdForce,
    holdTypeI := Config.holdTypeI, indexPeriod := Config.indexPeriod, eraseByte := Config.eraseByte,
    nrAddrFf := true }

/-- The machine at system start (10_state.md R48, 70_reset_and_hazards.md R280): nothing mounted, no file, no event
pending. What R48 leaves unspecified is named in log entries 12 and 13. -/
def State.reset : State :=
  { trackReg := 0, sectorReg := 0, dataReg := 0, side := false, activeDrive := some 0, stepDirection := .outwards,
    flags := Indicators.clear,
    drives := Vector.replicate 4 { desc := Descriptor.unmounted, currentTrack := 0 },
    readyDelay := 1, busyDelay := 0, byteDelay := 1,
    indexCountdown := Params.implementation.indexPeriod.polls, indexState := false,
    xfer := .idle, buf := List.replicate bufMax 0, position := 0, used := 0, raCounter := 0, lastType := .typeI,
    files := [], params := Params.implementation, log := [], lastRead := none, ioDraws := [], ioCount := 0,
    pending := [] }

end Sys2Proof.Machine
end

