-- ==== Sys2Proof/Machine/Operands.lean ====
section
/-! DEFINITION. The operand forms: the drive-select value (30_encoding.md R96, R102) and the implicit register
operands (R98). The command byte's own fields are read in Decode. -/

namespace Sys2Proof.Machine

/-- `decode_select`: none where bits 3:0 are zero, else the lowest set bit; bits 7:4 are ignored (30_encoding.md
R102). -/
def decodeSelect (v : Byte) : Option (Fin 4) :=
  if v.getLsbD 0 then some 0
  else if v.getLsbD 1 then some 1
  else if v.getLsbD 2 then some 2
  else if v.getLsbD 3 then some 3
  else none

/-- `drv(a)`, the drive in slot `a` (00_scope.md R11). -/
def State.drive (s : State) (a : Fin 4) : Drive := s.drives[a]

/-- `drv(active_drive)`, where a drive is selected. -/
def State.selected (s : State) : Option Drive := s.activeDrive.map s.drive

/-- The active drive and its image path, where a drive is selected and has media. -/
def State.activeMedia (s : State) : Option (Drive × String) :=
  match s.selected with
  | none => none
  | some d =>
    match d.desc.imagePath with
    | none => none
    | some p => some (d, p)

/-- The track argument of the mapper: `TR` (20_memory.md R73). -/
def State.trackArg (s : State) : Int := s.trackReg.toNat

/-- The side argument of the mapper: the side sampled by the command (20_memory.md R73, 40_command_decoder.md R116). -/
def State.sideArg (s : State) : Int := s.side.toNat

/-- The sector argument of the mapper: `SR` (20_memory.md R73). -/
def State.sectorArg (s : State) : Int := s.sectorReg.toNat

/-- `v mod 256`, a value copied into an 8-bit register (00_scope.md R10). -/
def toByte (n : Nat) : Byte := BitVec.ofNat 8 n

end Sys2Proof.Machine
end

