-- ==== Sys2Proof/Machine/Flags.lean ====
section
/-! DEFINITION. The indicator flags: what a fault records (60_exceptions.md R251 to R256), the not-ready predicate, and
the bytes synthesized from the flags (46_status_and_ports.md R226 to R230). -/

namespace Sys2Proof.Machine

/-- The faults of Type II and Type III commands and of the write commit (60_exceptions.md R251, R252, R254, R255,
R256, R249). -/
inductive CommandFault where
  | notReady
  | writeProtected
  | trackMismatch
  | mapperError
  | hostIoError
  | unsupported
  deriving DecidableEq, Repr

/-- The flags a fault records: `write_fail_protected` for WriteProtected (60_exceptions.md R252), `crc_error` and
`record_not_found` for HostIoError (R255), `record_not_found` for the others (R251, R254, R256, R249). -/
def CommandFault.record (f : CommandFault) (i : Indicators) : Indicators :=
  match f with
  | .notReady => { i with recordNotFound := true }
  | .writeProtected => { i with writeFailProtected := true }
  | .trackMismatch => { i with recordNotFound := true }
  | .mapperError => { i with recordNotFound := true }
  | .hostIoError => { i with crcError := true, recordNotFound := true }
  | .unsupported => { i with recordNotFound := true }

/-- `not_ready_media()` (40_command_decoder.md R119). -/
def State.notReadyMedia (s : State) : Bool := s.activeMedia.isNone || decide (s.readyDelay > 1)

/-- The active drive and its image path, where `not_ready_media()` does not hold. -/
def State.readyMedia (s : State) : Option (Drive × String) :=
  if s.notReadyMedia then none else s.activeMedia

/-- A flag at bit `i` of a byte, `true = 1` (00_scope.md R9). -/
def flagAt (b : Bool) (i : Nat) : Byte := if b then 1#8 <<< i else 0#8

/-- `nr`, the not-ready bit (46_status_and_ports.md R226). -/
def State.nrBit (s : State) : Bool := decide (s.readyDelay > 1)

/-- `bsy`, "`busy || busy_delay > 0`" (46_status_and_ports.md R227). -/
def State.busyBit (s : State) : Bool := s.flags.busy || decide (s.busyDelay > 0)

/-- `wp` of the Type I layout: the active drive's write protect (46_status_and_ports.md R228). -/
def State.wpBit (s : State) : Bool :=
  match s.selected with
  | none => false
  | some d => d.desc.writeProtect

/-- `t0` of the Type I layout: the active drive at track 0 (46_status_and_ports.md R228). -/
def State.track0Bit (s : State) : Bool :=
  match s.selected with
  | none => false
  | some d => decide (d.currentTrack = 0)

/-- The status byte after a Type I or Type IV command, and from reset (46_status_and_ports.md R228). -/
def State.layoutI (s : State) : Byte :=
  flagAt s.nrBit 7 ||| flagAt s.wpBit 6 ||| flagAt s.flags.headLoaded 5 ||| flagAt s.flags.seekError 4
    ||| flagAt s.flags.crcError 3 ||| flagAt s.track0Bit 2 ||| flagAt s.indexState 1 ||| flagAt s.busyBit 0

/-- The status byte after a Type II or Type III command; bits 5 and 1 read 0 (46_status_and_ports.md R229). -/
def State.layoutII (s : State) : Byte :=
  flagAt s.nrBit 7 ||| flagAt s.flags.writeFailProtected 6 ||| flagAt s.flags.recordNotFound 4
    ||| flagAt s.flags.crcError 3 ||| flagAt s.flags.dataLost 2 ||| flagAt s.busyBit 0

/-- The layout that the previous command's type selects (46_status_and_ports.md R227). -/
def State.statusByte (s : State) : Byte :=
  match s.lastType with
  | .typeI => s.layoutI
  | .typeII => s.layoutII
  | .typeIII => s.layoutII
  | .typeIV => s.layoutI

/-- The drive-port byte; bits 6 to 2 read 0 (46_status_and_ports.md R230). -/
def State.drivePortByte (s : State) : Byte :=
  flagAt s.flags.interruptRequest 0 ||| flagAt s.nrBit 1 ||| flagAt s.flags.dataRequest 7

end Sys2Proof.Machine
end

