-- ==== Sys2Proof/Machine/Mapper.lean ====
section
/-! DEFINITION. The Image Geometry Mapper (20_memory.md R70 to R73), on unbounded integers. -/

namespace Sys2Proof.Machine

/-- The mapper's errors (20_memory.md R71). -/
inductive MapperError where
  /-- `side' > heads`. -/
  | invalidHead
  /-- `sector < first_sector_number`. -/
  | sectorBelowFirst
  deriving DecidableEq, Repr

/-- `side'`: the side after the swap (20_memory.md R70). -/
def mapSide (d : Descriptor) (side : Int) : Int := if d.sidesSwapped then 1 - side else side

/-- `track'`: the track after the reversal of its side, "exactly as written" (20_memory.md R70, R72; conflict C6). -/
def mapTrack (d : Descriptor) (track side : Int) : Int :=
  if (if mapSide d side = 0 then d.reverseSide0 else d.reverseSide1) then d.tracks - track else track

/-- `track_bytes` (20_memory.md R70). -/
def trackBytes (d : Descriptor) : Int := d.sectorSize * d.sectorsPerTrack

/-- The offset formula of either layout, over `side'` (20_memory.md R70; conflict C3). -/
def imageOffset (d : Descriptor) (track' side' sector : Int) : Int :=
  if d.interleaved then
    trackBytes d * (track' * d.heads) + trackBytes d * side' + d.sectorSize * (sector - d.firstSectorNumber)
  else
    trackBytes d * track' + trackBytes d * d.tracks * side' + d.sectorSize * (sector - d.firstSectorNumber)

/-- `find_offset(d, track, side, sector)` (20_memory.md R70, R71). -/
def findOffset (d : Descriptor) (track side sector : Int) : Except MapperError Int :=
  if mapSide d side > d.heads then .error .invalidHead
  else if sector < d.firstSectorNumber then .error .sectorBelowFirst
  else .ok (imageOffset d (mapTrack d track side) (mapSide d side) sector)

end Sys2Proof.Machine
end

