-- ==== Sys2Proof/Machine/Memory.lean ====
section
/-! DEFINITION. Image files: the bytes of one file, the files by path, and the two accesses the block makes,
`MemRead` and `MemWrite` (20_memory.md R65 to R68). -/

namespace Sys2Proof.Machine

/-- What an offset of a file reads as when no cell lists it. The host supplies every byte of a file, and a byte
of this value is simply not listed (log entry 14). -/
def blankByte : Byte := 0

/-- The byte at offset `a` of a canonical list of cells. -/
def cellsRead : List Host.Cell → Nat → Byte
  | [], _ => blankByte
  | c :: rest, a => if c.1 = a then c.2 else cellsRead rest a

/-- The canonical list with `v` at offset `a`. -/
def cellsWrite : List Host.Cell → Nat → Byte → List Host.Cell
  | [], a, v => if v = blankByte then [] else [(a, v)]
  | c :: rest, a, v =>
    if a < c.1 then (if v = blankByte then c :: rest else (a, v) :: c :: rest)
    else if a = c.1 then (if v = blankByte then rest else (a, v) :: rest)
    else c :: cellsWrite rest a v

/-- The canonical list of the given bytes, the first at offset `a`. -/
def cellsOfBytes : Nat → List Byte → List Host.Cell
  | _, [] => []
  | a, b :: bs => if b = blankByte then cellsOfBytes (a + 1) bs else (a, b) :: cellsOfBytes (a + 1) bs

/-- The canonical form: offsets strictly rising, no cell equal to what an unlisted offset reads as, every cell
inside the file. -/
abbrev Memory.wf (m : Memory) : Prop :=
  m.cells.Pairwise (fun c d => c.1 < d.1) ∧ ∀ c ∈ m.cells, c.2 ≠ blankByte ∧ c.1 < m.size

/-- The byte at offset `a` of a file. -/
def Memory.read (m : Memory) (a : Nat) : Byte := cellsRead m.cells a

/-- The file with byte `v` at offset `a`; a file is never extended (20_memory.md R67). -/
def Memory.write (m : Memory) (a : Nat) (v : Byte) : Memory :=
  if a < m.size then { m with cells := cellsWrite m.cells a v } else m

/-- The `n` bytes at offsets `a` to `a + n - 1` (20_memory.md R66). -/
def Memory.readBytes (m : Memory) (a n : Nat) : List Byte :=
  (List.range n).map (fun i => m.read (a + i))

/-- The file with the bytes `bs` at offsets from `a` on (20_memory.md R67). -/
def Memory.writeBytes (m : Memory) (a : Nat) : List Byte → Memory
  | [] => m
  | b :: bs => (m.write a b).writeBytes (a + 1) bs

/-- The file that holds exactly the given bytes: "flat binary, one byte per sector byte" (20_memory.md R65). -/
def Memory.ofBytes (bs : List Byte) : Memory := { size := bs.length, cells := cellsOfBytes 0 bs }

/-- The file of a path, if it can be opened. -/
def filesFind : List ImageFile → String → Option Memory
  | [], _ => none
  | f :: rest, p => if f.path = p then some f.mem else filesFind rest p

/-- The files with contents `m` at path `p`. -/
def filesPut : List ImageFile → String → Memory → List ImageFile
  | [], p, m => [{ path := p, mem := m }]
  | f :: rest, p, m =>
    if p < f.path then { path := p, mem := m } :: f :: rest
    else if p = f.path then { path := p, mem := m } :: rest
    else f :: filesPut rest p m

/-- The files without the one at path `p`. -/
def filesDrop (fs : List ImageFile) (p : String) : List ImageFile := fs.filter (fun f => f.path ≠ p)

/-- The canonical form of the file system: paths strictly rising, every file canonical. -/
abbrev filesWf (fs : List ImageFile) : Prop :=
  fs.Pairwise (fun f g => f.path < g.path) ∧ ∀ f ∈ fs, f.mem.wf

/-- The byte at offset `a` of the file at `path`: none where there is no such file or no such offset. The model's
read of one byte. -/
def State.fileByte (s : State) (path : String) (a : Nat) : Option Byte :=
  match filesFind s.files path with
  | none => none
  | some m => if a < m.size then some (m.read a) else none

/-- Whether the image access now made fails by the host's draw: the next settled draw, and where none is settled
the free value (20_memory.md R66, R67; 60_exceptions.md R271; log entry 8). -/
def State.ioFails (s : State) : Bool :=
  match s.ioDraws with
  | [] => Config.hostFails s.ioCount
  | d :: _ => d

/-- The state after an image access has taken its draw: "one per call" (93 U3). -/
def State.ioTaken (s : State) : State :=
  { s with ioDraws := s.ioDraws.tail, ioCount := s.ioCount + 1 }

/-- Whether the `n` bytes at offset `off` lie inside a file of `size` bytes: an access "returns `IoErr` when
`off + n` exceeds the file's size" (20_memory.md R66, R67). No offset is negative in a state the rules reach
(log entry 15). -/
def inFile (off : Int) (n size : Nat) : Bool := decide (0 ≤ off) && decide (off + n ≤ size)

/-- What `MemRead` returns in this state: the bytes, or none for `IoErr` (20_memory.md R66). -/
def State.memRead (s : State) (path : String) (off : Int) (n : Nat) : Option (List Byte) :=
  match filesFind s.files path with
  | none => none
  | some m => if inFile off n m.size && !s.ioFails then some (m.readBytes off.toNat n) else none

/-- Whether `MemWrite` returns `Ok` in this state (20_memory.md R67). -/
def State.memWriteOk (s : State) (path : String) (off : Int) (n : Nat) : Bool :=
  match filesFind s.files path with
  | none => false
  | some m => inFile off n m.size && !s.ioFails

/-- The bytes a failed write leaves in its range: "unspecified (a model admits any bytes there)", so free values
(20_memory.md R67; log entry 9). -/
def tornBytes (serial n : Nat) : List Byte := (List.range n).map (Config.tornByte serial)

/-- The state after `MemWrite(path, off, vs)` (20_memory.md R67): the bytes stand in the file where it returns `Ok`;
where it returns `IoErr`, the part of the range that lies in the file holds free bytes. -/
def State.memWritten (s : State) (path : String) (off : Int) (vs : List Byte) : State :=
  match filesFind s.files path with
  | none => s.ioTaken
  | some m =>
    let left := if s.memWriteOk path off vs.length then vs else tornBytes s.ioCount vs.length
    if 0 ≤ off then { s.ioTaken with files := filesPut s.files path (m.writeBytes off.toNat left) } else s.ioTaken

end Sys2Proof.Machine
end

