-- ==== Sys2Proof/Machine/Ops.lean ====
section
/-! DEFINITION. The operations the instructions share: the busy gate and prologue, the two ways a command ends
(40_command_decoder.md), arming a transfer (45_transfer_engine.md), and the poll counters (46_status_and_ports.md). -/

namespace Sys2Proof.Machine

/-- `log(kind)` (00_scope.md R11, 60_exceptions.md R268). -/
def State.logged (s : State) (e : LogEvent) : State := { s with log := e :: s.log }

/-- The byte a port read gives the guest (60_exceptions.md R272). -/
def State.returning (s : State) (v : Byte) : State := { s with lastRead := some v }

/-- `xfer <- None; position <- 0; used <- 0` (40_command_decoder.md R112, R117). -/
def State.endTransfer (s : State) : State := { s with xfer := .idle, position := 0, used := 0 }

/-- `clear_status_indicators()`: the nine booleans and nothing else (40_command_decoder.md R113). -/
def State.clearIndicators (s : State) : State := { s with flags := Indicators.clear }

/-- The prologue of an accepted Type I, II or III command (40_command_decoder.md R112). `sampled` is the side bit
of a Type II or III command, none for Type I (R116). -/
def State.prologue (s : State) (t : CommandType) (sampled : Option Bool) : State :=
  { s.endTransfer.clearIndicators with
    flags := { Indicators.clear with busy := true }, lastType := t, side := sampled.getD s.side }

/-- The busy gate (40_command_decoder.md R110, R111): while `busy` a Type I, II or III command is dropped, which
only logs; otherwise its prologue and body run. -/
def State.command (s : State) (t : CommandType) (sampled : Option Bool) (body : State → State) : State :=
  if s.flags.busy then s.logged .droppedWhileBusy else body (s.prologue t sampled)

/-- Taking a fault: the error completion, the spec's counterpart of an exception's entry (40_command_decoder.md
R117, 60_exceptions.md R250, R262). It saves nothing and transfers control nowhere. -/
def State.raise (s : State) (f : CommandFault) : State :=
  { s.endTransfer with
    flags := { f.record s.flags with dataRequest := false, busy := false, interruptRequest := true } }

/-- The completion without a fault of a write commit (42_type2_commands.md R154, 43_type3_commands.md R175). -/
def State.commitDone (s : State) : State :=
  { s.endTransfer with flags := { s.flags with busy := false, interruptRequest := true } }

/-- `finish_I()` (40_command_decoder.md R118). -/
def State.finishTypeI (s : State) : State :=
  if s.params.holdTypeI.val = 0 then
    { s with flags := { s.flags with busy := false, interruptRequest := true } }
  else
    { s with flags := { s.flags with busy := false }, busyDelay := s.params.holdTypeI.val }

/-- `head_load(h)` (41_type1_commands.md R131). -/
def State.headLoad (s : State) (load : Bool) : State :=
  if load && s.activeDrive.isSome then { s with flags := { s.flags with headLoaded := true } } else s

/-- The frame of a Type I command: gate, prologue, body, head load, completion (41_type1_commands.md R130). -/
def State.typeI (s : State) (load : Bool) (body : State → State) : State :=
  s.command .typeI none (fun t => ((body t).headLoad load).finishTypeI)

/-- `drv(a).current_track <- t` (10_state.md R32). -/
def State.setCurrentTrack (s : State) (a : Fin 4) (t : Nat) : State :=
  { s with drives := s.drives.set a { s.drive a with currentTrack := t } }

/-- The track a step in direction `dir` reaches, clamped (41_type1_commands.md R140). -/
def steppedTrack (dir : StepDirection) (d : Drive) : Nat :=
  match dir with
  | .inwards => min (d.currentTrack + 1) (d.desc.tracks - 1)
  | .outwards => d.currentTrack - 1

/-- `step_move(u)` (41_type1_commands.md R140). -/
def State.stepMove (s : State) (update : Bool) : State :=
  match s.activeDrive with
  | none => s
  | some a =>
    let t := steppedTrack s.stepDirection (s.drive a)
    { s.setCurrentTrack a t with trackReg := if update then toByte t else s.trackReg }

/-- `step_direction <- dir` (10_state.md R27). -/
def State.facing (s : State) (dir : StepDirection) : State := { s with stepDirection := dir }

/-- `arm_read()` (45_transfer_engine.md R201). -/
def State.armRead (s : State) : State :=
  { s with
    dataReg := s.buf.getD 0 0, position := 1, xfer := .readOut,
    flags := { s.flags with dataRequest := false }, byteDelay := s.params.byteDelay.polls }

/-- `arm_write(mode)` (45_transfer_engine.md R202). -/
def State.armWrite (s : State) (mode : Xfer) : State :=
  { s with
    position := 0, xfer := mode,
    flags := { s.flags with dataRequest := false }, byteDelay := s.params.byteDelay.polls }

/-- `buf[0 .. n-1] <- bytes; used <- n`, the rest of the buffer as it was (10_state.md R42). -/
def State.fillBuffer (s : State) (bytes : List Byte) : State :=
  { s with buf := bytes ++ s.buf.drop bytes.length, used := bytes.length }

/-- `busy <- false` (42_type2_commands.md R150, 43_type3_commands.md R170, R173). -/
def State.notBusy (s : State) : State := { s with flags := { s.flags with busy := false } }

/-- `tick_byte()` (46_status_and_ports.md R222). -/
def State.tickByte (s : State) : State :=
  if s.xfer ≠ .idle ∧ s.flags.dataRequest = false then
    if s.byteDelay > 1 then { s with byteDelay := s.byteDelay - 1 }
    else { s with flags := { s.flags with dataRequest := true } }
  else s

/-- `tick_ready()` (46_status_and_ports.md R223). -/
def State.tickReady (s : State) : State :=
  if s.readyDelay > 1 then { s with readyDelay := s.readyDelay - 1 } else s

/-- `tick_busy()` (46_status_and_ports.md R224). -/
def State.tickBusy (s : State) : State :=
  if s.busyDelay > 0 then
    if s.busyDelay = 1 then
      { s with busyDelay := 0, flags := { s.flags with interruptRequest := true } }
    else { s with busyDelay := s.busyDelay - 1 }
  else s

/-- `tick_index()` (46_status_and_ports.md R225). -/
def State.tickIndex (s : State) : State :=
  if s.indexCountdown - 1 = 0 then
    { s with indexState := !s.indexState, indexCountdown := s.params.indexPeriod.polls }
  else { s with indexCountdown := s.indexCountdown - 1 }

end Sys2Proof.Machine
end

