-- ==== Sys2Proof/Machine/TypeI.lean ====
section
/-! DEFINITION. The Type I commands (41_type1_commands.md). -/

namespace Sys2Proof.Machine

/-- The body of Restore: `step_direction <- Out`, `TR <- 0`, and the drive's track, where one is selected
(41_type1_commands.md R132). -/
def State.restoreBody (s : State) : State :=
  match s.activeDrive with
  | none => { s with stepDirection := .outwards, trackReg := 0 }
  | some a => { s.setCurrentTrack a 0 with stepDirection := .outwards, trackReg := 0 }

/-- The direction a Seek leaves: In where `DR > TR`, else Out (41_type1_commands.md R133). -/
def State.seekDirection (s : State) : StepDirection :=
  if s.dataReg.toNat > s.trackReg.toNat then .inwards else .outwards

/-- `seek_error <- true` (60_exceptions.md R253). -/
def State.seekFailed (s : State) : State := { s with flags := { s.flags with seekError := true } }

/-- The body of Seek (41_type1_commands.md R133). The target is unreachable where `DR > tracks - 1` on the
integers, which is `tracks <= DR`. -/
def State.seekBody (s : State) : State :=
  match s.activeDrive with
  | none => { (s.facing s.seekDirection).seekFailed with trackReg := s.dataReg }
  | some a =>
    if (s.drive a).desc.tracks ≤ s.dataReg.toNat then (s.facing s.seekDirection).seekFailed
    else { (s.facing s.seekDirection).setCurrentTrack a s.dataReg.toNat with trackReg := s.dataReg }

/-- Restore, `0000hvrr` (41_type1_commands.md R132). -/
def execRestore (load : Bool) (s : State) : Host.Outcome State Fault Refusal :=
  .next (s.typeI load State.restoreBody)

/-- Seek, `0001hvrr` (41_type1_commands.md R133). -/
def execSeek (load : Bool) (s : State) : Host.Outcome State Fault Refusal :=
  .next (s.typeI load State.seekBody)

/-- Step, `0010hvrr` (41_type1_commands.md R134). -/
def execStep (load : Bool) (s : State) : Host.Outcome State Fault Refusal :=
  .next (s.typeI load (fun t => t.stepMove false))

/-- StepUpdate, `0011hvrr` (41_type1_commands.md R135). -/
def execStepUpdate (load : Bool) (s : State) : Host.Outcome State Fault Refusal :=
  .next (s.typeI load (fun t => t.stepMove true))

/-- StepIn, `0100hvrr` (41_type1_commands.md R136). -/
def execStepIn (load : Bool) (s : State) : Host.Outcome State Fault Refusal :=
  .next (s.typeI load (fun t => (t.facing .inwards).stepMove false))

/-- StepInUpdate, `0101hvrr` (41_type1_commands.md R137). -/
def execStepInUpdate (load : Bool) (s : State) : Host.Outcome State Fault Refusal :=
  .next (s.typeI load (fun t => (t.facing .inwards).stepMove true))

/-- StepOut, `0110hvrr` (41_type1_commands.md R138). -/
def execStepOut (load : Bool) (s : State) : Host.Outcome State Fault Refusal :=
  .next (s.typeI load (fun t => (t.facing .outwards).stepMove false))

/-- StepOutUpdate, `0111hvrr` (41_type1_commands.md R139). -/
def execStepOutUpdate (load : Bool) (s : State) : Host.Outcome State Fault Refusal :=
  .next (s.typeI load (fun t => (t.facing .outwards).stepMove true))

end Sys2Proof.Machine
end

