-- ==== Sys2Proof/Machine/TypeII.lean ====
section
/-! DEFINITION. The Type II commands and the write commit (42_type2_commands.md). -/

namespace Sys2Proof.Machine

/-- `find_offset(d, TR, side, SR)`, the mapper as the block calls it (20_memory.md R73). -/
def State.sectorOffset (s : State) (d : Drive) : Except MapperError Int :=
  findOffset d.desc s.trackArg s.sideArg s.sectorArg

/-- The body of ReadSector (42_type2_commands.md R150), its checks in the order of 40_command_decoder.md R120. -/
def State.readSectorBody (s : State) : State :=
  match s.readyMedia with
  | none => s.raise .notReady
  | some (d, path) =>
    if s.trackReg.toNat ≠ d.currentTrack then s.raise .trackMismatch
    else
      match s.sectorOffset d with
      | .error _ => s.raise .mapperError
      | .ok off =>
        match s.memRead path off d.desc.sectorSize with
        | none => { s.ioTaken with readyDelay := s.params.readyDelayIoErr.polls }.raise .hostIoError
        | some bytes => (s.ioTaken.fillBuffer bytes).armRead.notBusy

/-- The body of a multi-sector command: logged, then the error completion, with no other check
(42_type2_commands.md R151, R153). -/
def State.unsupportedBody (s : State) : State := (s.logged .unsupportedCommand).raise .unsupported

/-- The body of WriteSector and WriteTrack up to the armed transfer: `busy` stays true
(42_type2_commands.md R152, 43_type3_commands.md R174). -/
def State.armWriteBody (s : State) (mode : Xfer) : State :=
  match s.readyMedia with
  | none => s.raise .notReady
  | some (d, _) =>
    if d.desc.writeProtect then s.raise .writeProtected
    else { s with used := d.desc.sectorSize }.armWrite mode

/-- `commit_write_sector()` (42_type2_commands.md R154). -/
def State.commitWriteSector (s : State) : State :=
  match s.activeMedia with
  | none => s.raise .notReady
  | some (d, path) =>
    if d.desc.writeProtect then s.raise .writeProtected
    else if s.trackReg.toNat ≠ d.currentTrack then s.raise .trackMismatch
    else
      match s.sectorOffset d with
      | .error _ => s.raise .mapperError
      | .ok off =>
        if s.memWriteOk path off (s.buf.take s.used).length then
          (s.memWritten path off (s.buf.take s.used)).commitDone
        else (s.memWritten path off (s.buf.take s.used)).raise .hostIoError

/-- ReadSector, `1000xxSx` (42_type2_commands.md R150). -/
def execReadSector (side : Bool) (s : State) : Host.Outcome State Fault Refusal :=
  .next (s.command .typeII (some side) State.readSectorBody)

/-- ReadSectorMulti, `1001xxSx` (42_type2_commands.md R151). -/
def execReadSectorMulti (side : Bool) (s : State) : Host.Outcome State Fault Refusal :=
  .next (s.command .typeII (some side) State.unsupportedBody)

/-- WriteSector, `1010xxSx` (42_type2_commands.md R152). -/
def execWriteSector (side : Bool) (s : State) : Host.Outcome State Fault Refusal :=
  .next (s.command .typeII (some side) (fun t => t.armWriteBody .writeSectorIn))

/-- WriteSectorMulti, `1011xxSx` (42_type2_commands.md R153). -/
def execWriteSectorMulti (side : Bool) (s : State) : Host.Outcome State Fault Refusal :=
  .next (s.command .typeII (some side) State.unsupportedBody)

end Sys2Proof.Machine
end

