-- ==== Sys2Proof/Machine/TypeIII.lean ====
section
/-! DEFINITION. The Type III commands and the WriteTrack commit (43_type3_commands.md). -/

namespace Sys2Proof.Machine

/-- `size_code(sector_size)`; a size that no mount may supply has a free code (43_type3_commands.md R171; log
entry 11). -/
def sizeCode (sectorSize : Nat) : Byte :=
  if sectorSize = 128 then 0
  else if sectorSize = 256 then 1
  else if sectorSize = 512 then 2
  else if sectorSize = 1024 then 3
  else Config.otherSizeCode sectorSize

/-- The round-robin counter after one advance (43_type3_commands.md R172). -/
def raNext (counter sectorsPerTrack : Nat) : Nat :=
  if counter + 1 > sectorsPerTrack then 0 else counter + 1

/-- `ra_advance(d)` (43_type3_commands.md R172). -/
def State.raAdvance (s : State) (d : Drive) : State :=
  { s with
    raCounter := raNext s.raCounter d.desc.sectorsPerTrack,
    sectorReg := toByte (raNext s.raCounter d.desc.sectorsPerTrack) }

/-- The 6-byte record of ReadAddress: track, side, sector, size code, CRC low byte, CRC high byte
(43_type3_commands.md R170, 20_memory.md R64). -/
def addressRecord (track side sector size : Byte) : List Byte :=
  [track, side, sector, size,
    (Config.raCrc track side sector size).extractLsb' 0 8, (Config.raCrc track side sector size).extractLsb' 8 8]

/-- The record ReadAddress streams from this state (43_type3_commands.md R170). -/
def State.idRecord (s : State) (d : Drive) : List Byte :=
  addressRecord (toByte d.currentTrack) (toByte s.side.toNat) s.sectorReg (sizeCode d.desc.sectorSize)

/-- The body of ReadAddress (43_type3_commands.md R170). -/
def State.readAddressBody (s : State) : State :=
  match s.readyMedia with
  | none => s.raise .notReady
  | some (d, _) => ((s.raAdvance d).fillBuffer ((s.raAdvance d).idRecord d)).armRead.notBusy

/-- The body of ReadTrack, the stub that "clears busy only" (43_type3_commands.md R173; conflict C4). -/
def State.readTrackBody (s : State) : State :=
  match s.readyMedia with
  | none => s.raise .notReady
  | some _ => s.notBusy

/-- `commit_write_track()`: the buffer is filled with the erase byte, no file is touched (43_type3_commands.md R175). -/
def State.commitWriteTrack (s : State) : State :=
  { s with buf := List.replicate s.used s.params.eraseByte ++ s.buf.drop s.used }.commitDone

/-- ReadAddress, `1100xxSx` (43_type3_commands.md R170). -/
def execReadAddress (side : Bool) (s : State) : Host.Outcome State Fault Refusal :=
  .next (s.command .typeIII (some side) State.readAddressBody)

/-- ReadTrack, `1110xxSx` (43_type3_commands.md R173). -/
def execReadTrack (side : Bool) (s : State) : Host.Outcome State Fault Refusal :=
  .next (s.command .typeIII (some side) State.readTrackBody)

/-- WriteTrack, `1111xxSx` (43_type3_commands.md R174). -/
def execWriteTrack (side : Bool) (s : State) : Host.Outcome State Fault Refusal :=
  .next (s.command .typeIII (some side) (fun t => t.armWriteBody .writeTrackIn))

end Sys2Proof.Machine
end

