-- ==== Sys2Proof/Machine/TypeIV.lean ====
section
/-! DEFINITION. The Type IV command (44_type4_command.md). -/

namespace Sys2Proof.Machine

/-- The indicators after ForceInterrupt: the clear group where the block was not busy, and otherwise the flags
kept but for `data_request` and `busy` (44_type4_command.md R190). -/
def forcedIndicators (i : Indicators) : Indicators :=
  if i.busy then { i with dataRequest := false, busy := false } else Indicators.clear

/-- `force_interrupt()` (44_type4_command.md R190). -/
def State.forceInterrupt (s : State) : State :=
  { s.endTransfer with
    flags := forcedIndicators s.flags, busyDelay := s.params.holdForce.polls, lastType := .typeIV }

/-- ForceInterrupt, `1101xxxx`, exempt from the busy gate (44_type4_command.md R190, 40_command_decoder.md R114). -/
def execForceInterrupt (s : State) : Host.Outcome State Fault Refusal := .next s.forceInterrupt

end Sys2Proof.Machine
end

