-- ==== Sys2Proof/Machine/Ports.lean ====
section
/-! DEFINITION. The port accesses other than the data port (46_status_and_ports.md, 40_command_decoder.md R110). -/

namespace Sys2Proof.Machine

/-- The ready, busy and index ticks of a status read, in that order (46_status_and_ports.md R227). -/
def State.statusTicks (s : State) : State := s.tickReady.tickBusy.tickIndex

/-- The byte an address register reads as: `0xFF` while not ready, where `NR_ADDR_FF` (46_status_and_ports.md R231,
R233). -/
def State.addressByte (s : State) (v : Byte) : Byte :=
  if s.params.nrAddrFf && s.notReadyMedia then 0xFF#8 else v

/-- ReadStatus, `R 0`: byte tick, build, then the other ticks (46_status_and_ports.md R227). -/
def execReadStatus (s : State) : Host.Outcome State Fault Refusal :=
  .next (s.tickByte.statusTicks.returning s.tickByte.statusByte)

/-- WriteCommand, `W 0, c`: the byte is decoded and the command it names is run (40_command_decoder.md R110, R115). -/
def execWriteCommand (c : Byte) (s : State) : Host.Outcome State Fault Refusal :=
  match decodeCommand c with
  | .restore h => execRestore h s
  | .seek h => execSeek h s
  | .step h => execStep h s
  | .stepUpdate h => execStepUpdate h s
  | .stepIn h => execStepIn h s
  | .stepInUpdate h => execStepInUpdate h s
  | .stepOut h => execStepOut h s
  | .stepOutUpdate h => execStepOutUpdate h s
  | .readSector b => execReadSector b s
  | .readSectorMulti b => execReadSectorMulti b s
  | .writeSector b => execWriteSector b s
  | .writeSectorMulti b => execWriteSectorMulti b s
  | .readAddress b => execReadAddress b s
  | .readTrack b => execReadTrack b s
  | .writeTrack b => execWriteTrack b s
  | .forceInterrupt => execForceInterrupt s

/-- ReadTrackRegister, `R 1` (46_status_and_ports.md R231). -/
def execReadTrackRegister (s : State) : Host.Outcome State Fault Refusal :=
  .next (s.returning (s.addressByte s.trackReg))

/-- WriteTrackRegister, `W 1, v` (46_status_and_ports.md R232). -/
def execWriteTrackRegister (v : Byte) (s : State) : Host.Outcome State Fault Refusal :=
  .next { s with trackReg := v }

/-- ReadSectorRegister, `R 2` (46_status_and_ports.md R233). -/
def execReadSectorRegister (s : State) : Host.Outcome State Fault Refusal :=
  .next (s.returning (s.addressByte s.sectorReg))

/-- WriteSectorRegister, `W 2, v` (46_status_and_ports.md R234). -/
def execWriteSectorRegister (v : Byte) (s : State) : Host.Outcome State Fault Refusal :=
  .next { s with sectorReg := v }

/-- ReadDrivePort, `R 4` and `R 5`: byte tick, build, ready tick (46_status_and_ports.md R230). -/
def execReadDrivePort (s : State) : Host.Outcome State Fault Refusal :=
  .next (s.tickByte.tickReady.returning s.tickByte.drivePortByte)

/-- WriteDriveSelect, `W 4, v` and `W 5, v` (46_status_and_ports.md R236). -/
def execWriteDriveSelect (v : Byte) (s : State) : Host.Outcome State Fault Refusal :=
  .next { s with activeDrive := decodeSelect v }

/-- ReadUnmapped, `R 6` and `R 7` (46_status_and_ports.md R237). -/
def execReadUnmapped (s : State) : Host.Outcome State Fault Refusal := .next (s.returning 0xFF#8)

/-- WriteUnmapped, `W 6, v` and `W 7, v`: ignored (46_status_and_ports.md R237). -/
def execWriteUnmapped (_v : Byte) (s : State) : Host.Outcome State Fault Refusal := .next s

end Sys2Proof.Machine
end

