-- ==== Sys2Proof/Machine/Transfer.lean ====
section
/-! DEFINITION. The Transfer Engine's data port (45_transfer_engine.md). -/

namespace Sys2Proof.Machine

/-- The part of a data-port read that moves the stream on (45_transfer_engine.md R203). -/
def State.streamNext (s : State) : State :=
  if s.xfer = .readOut then
    if s.position < s.used then
      { s with
        dataReg := s.buf.getD s.position 0, position := s.position + 1,
        flags := { s.flags with dataRequest := false }, byteDelay := s.params.byteDelay.polls }
    else
      { s.endTransfer with flags := { s.flags with dataRequest := false, interruptRequest := true } }
  else s

/-- The byte put into the buffer, before the transfer goes on or commits (45_transfer_engine.md R205). -/
def State.storeByte (s : State) (v : Byte) : State :=
  { s with
    buf := s.buf.set s.position v, position := s.position + 1, flags := { s.flags with dataRequest := false } }

/-- `accept_byte(v)` (45_transfer_engine.md R205). -/
def State.acceptByte (s : State) (v : Byte) : State :=
  if s.position + 1 = s.used then
    if s.xfer = .writeSectorIn then (s.storeByte v).commitWriteSector else (s.storeByte v).commitWriteTrack
  else { s.storeByte v with byteDelay := s.params.byteDelay.polls }

/-- `DR <- v` (45_transfer_engine.md R204). -/
def State.loadData (s : State) (v : Byte) : State := { s with dataReg := v }

/-- The data-port write (45_transfer_engine.md R204, R206). -/
def State.putData (s : State) (v : Byte) : State :=
  if s.xfer = .writeSectorIn ∨ s.xfer = .writeTrackIn then
    if s.flags.dataRequest then (s.loadData v).acceptByte v else (s.loadData v).logged .unexpectedDataByte
  else s.loadData v

/-- ReadData, `R 3` (45_transfer_engine.md R203). -/
def execReadData (s : State) : Host.Outcome State Fault Refusal := .next (s.streamNext.returning s.dataReg)

/-- WriteData, `W 3, v` (45_transfer_engine.md R204). -/
def execWriteData (v : Byte) (s : State) : Host.Outcome State Fault Refusal := .next (s.putData v)

end Sys2Proof.Machine
end

