-- ==== Sys2Proof/Machine/Dispatch.lean ====
section
/-! DEFINITION. One arm per row of spec/opcode_table.json. -/

namespace Sys2Proof.Machine

def exec (i : Instr) (s : State) : Host.Outcome State Fault Refusal :=
  match i with
  | .restore h => Sys2Proof.Machine.execRestore h s
  | .seek h => Sys2Proof.Machine.execSeek h s
  | .step h => Sys2Proof.Machine.execStep h s
  | .stepUpdate h => Sys2Proof.Machine.execStepUpdate h s
  | .stepIn h => Sys2Proof.Machine.execStepIn h s
  | .stepInUpdate h => Sys2Proof.Machine.execStepInUpdate h s
  | .stepOut h => Sys2Proof.Machine.execStepOut h s
  | .stepOutUpdate h => Sys2Proof.Machine.execStepOutUpdate h s
  | .readSector b => Sys2Proof.Machine.execReadSector b s
  | .readSectorMulti b => Sys2Proof.Machine.execReadSectorMulti b s
  | .writeSector b => Sys2Proof.Machine.execWriteSector b s
  | .writeSectorMulti b => Sys2Proof.Machine.execWriteSectorMulti b s
  | .readAddress b => Sys2Proof.Machine.execReadAddress b s
  | .readTrack b => Sys2Proof.Machine.execReadTrack b s
  | .writeTrack b => Sys2Proof.Machine.execWriteTrack b s
  | .forceInterrupt => Sys2Proof.Machine.execForceInterrupt s
  | .readStatus => Sys2Proof.Machine.execReadStatus s
  | .writeCommand c => Sys2Proof.Machine.execWriteCommand c s
  | .readTrackRegister => Sys2Proof.Machine.execReadTrackRegister s
  | .writeTrackRegister v => Sys2Proof.Machine.execWriteTrackRegister v s
  | .readSectorRegister => Sys2Proof.Machine.execReadSectorRegister s
  | .writeSectorRegister v => Sys2Proof.Machine.execWriteSectorRegister v s
  | .readData => Sys2Proof.Machine.execReadData s
  | .writeData v => Sys2Proof.Machine.execWriteData v s
  | .readDrivePort => Sys2Proof.Machine.execReadDrivePort s
  | .writeDriveSelect v => Sys2Proof.Machine.execWriteDriveSelect v s
  | .readUnmapped => Sys2Proof.Machine.execReadUnmapped s
  | .writeUnmapped v => Sys2Proof.Machine.execWriteUnmapped v s

end Sys2Proof.Machine
end

