-- ==== Sys2Proof/Machine/Fetch.lean ====
section
/-! DEFINITION. Where a step finds what it runs. The block fetches no instruction (00_scope.md R2, 20_memory.md R76): a
port access reaches it from outside and is taken from the front of the pending events (log entry 1). -/

namespace Sys2Proof.Machine

/-- The event a step takes, and the state without it; none where nothing has arrived. -/
def fetch (s : State) : Option (Event × State) :=
  match s.pending with
  | [] => none
  | e :: rest => some (e, { s with pending := rest })

/-- The state in which the guest's access `w` is the next event. -/
def State.withAccess (s : State) (w : FetchWord) : State := { s with pending := .guest w :: s.pending }

/-- The state in which the instruction numbered as spec/opcode_table.json numbers it is the next event; unchanged
where the number is no encoded instruction. -/
def State.withTableWord (s : State) (nbits w : Nat) : State :=
  match tableWord nbits w with
  | .ok f => s.withAccess f
  | .error _ => s

end Sys2Proof.Machine
end

