-- ==== Sys2Proof/Machine/HostActions.lean ====
section
/-! DEFINITION. What the host does to the block between two port accesses (60_exceptions.md R271, R272;
70_reset_and_hazards.md R281, R283). -/

namespace Sys2Proof.Machine

/-- A mount: the slot's descriptor is replaced and the head clamped to its last track (60_exceptions.md R271;
conflict C10). -/
def State.mounted (s : State) (a : Fin 4) (d : Descriptor) : State :=
  { s with drives := s.drives.set a { desc := d, currentTrack := min (s.drive a).currentTrack (d.tracks - 1) } }

/-- `image_path <- None` (10_state.md R34, 60_exceptions.md R272). -/
def State.unmounted (s : State) (a : Fin 4) : State :=
  { s with drives := s.drives.set a { s.drive a with desc := { (s.drive a).desc with imagePath := none } } }

/-- The host gives a file new contents, or removes it (60_exceptions.md R271, 20_memory.md R68). -/
def State.hostFile (s : State) (path : String) (contents : Option (List Byte)) : State :=
  match contents with
  | none => { s with files := filesDrop s.files path }
  | some bs => { s with files := filesPut s.files path (Memory.ofBytes bs) }

/-- The hard reset: every component of the state record at its value of 10_state.md R48; descriptors, each drive's
`current_track` and the image files are unchanged (70_reset_and_hazards.md R281). The unspecified buffer contents
and the boundary's fields stay as they are (log entry 19). -/
def State.hardReset (s : State) : State :=
  { s with
    trackReg := 0, sectorReg := 0, dataReg := 0, side := false, activeDrive := some 0, stepDirection := .outwards,
    flags := Indicators.clear, readyDelay := 1, busyDelay := 0, byteDelay := 1,
    indexCountdown := s.params.indexPeriod.polls, indexState := false,
    xfer := .idle, position := 0, used := 0, raCounter := 0, lastType := .typeI }

/-- The host's mount action; a descriptor that breaks the preconditions is refused (60_exceptions.md R271). -/
def hostMount (a : Fin 4) (d : Descriptor) (s : State) : Host.Outcome State Fault Refusal :=
  if d.wellFormed then .next (s.mounted a d) else .refused .mountPrecondition

end Sys2Proof.Machine
end

