-- ==== Sys2Proof/Machine/Step.lean ====
section
/-! DEFINITION. One step: the next pending event, taken whole (00_scope.md R2, 20_memory.md R62). With nothing
pending the block does nothing (log entry 2). -/

namespace Sys2Proof.Machine

/-- One event: a port access of the guest, or an action of the host. -/
def step (s : State) : Host.Outcome State Fault Refusal :=
  match fetch s with
  | none => .next s
  | some (.guest w, t) => exec (decode w) t
  | some (.mount a d, t) => hostMount a d t
  | some (.unmount a, t) => .next (t.unmounted a)
  | some (.hostFile p c, t) => .next (t.hostFile p c)
  | some (.hardReset, t) => .next t.hardReset

/-- `s` with the numbered instruction as its next event, so that `step` takes and runs exactly it. -/
def State.withFetchWord (s : State) (nbits w : Nat) : State := s.withTableWord nbits w

end Sys2Proof.Machine
end

