-- ==== Sys2Proof/Safety.lean ====
section
/-! DEFINITION. What counts as a good state: the invariants of 10_state.md R47 and what the model's own fields add. -/

namespace Sys2Proof.Machine

/-- A drive slot as mounts and head movements leave it (10_state.md R32, R47; 60_exceptions.md R271). -/
structure Drive.Good (d : Drive) : Prop where
  mountable : d.desc.wellFormed = true
  onTrack : d.currentTrack ≤ d.desc.tracks - 1

/-- A `u32` count (60_exceptions.md R265). -/
abbrev isU32 (n : Nat) : Prop := n < 4294967296

/-- The invariant: the clauses of 10_state.md R47, with those that 40_command_decoder.md R121 and
42_type2_commands.md R154 derive, the widths of the counters, and the canonical form of the files. -/
structure State.Inv (s : State) : Prop where
  /-- `0 <= drv(a).current_track <= max_track`, in every slot. -/
  drives : ∀ a : Fin 4, (s.drive a).Good
  /-- `ready_delay >= 1`. -/
  readyDelay : 1 ≤ s.readyDelay ∧ isU32 s.readyDelay
  /-- `busy_delay`, floor 0. -/
  busyDelay : isU32 s.busyDelay
  /-- `byte_delay >= 1`. -/
  byteDelay : 1 ≤ s.byteDelay ∧ isU32 s.byteDelay
  /-- The countdown runs from `INDEX_PERIOD` down to 1. -/
  indexCountdown : 1 ≤ s.indexCountdown ∧ s.indexCountdown ≤ s.params.indexPeriod.polls
  /-- `BUF_MAX` bytes, `0 <= position <= used <= BUF_MAX`. -/
  buffer : s.buf.length = bufMax ∧ s.position ≤ s.used ∧ s.used ≤ bufMax
  /-- `xfer = None` implies `data_request = false`; nothing is left of the last transfer. -/
  idle : s.xfer = .idle → s.flags.dataRequest = false ∧ s.position = 0 ∧ s.used = 0
  /-- `xfer = ReadOut` implies `busy = false`; the first byte is loaded. -/
  reading : s.xfer = .readOut → s.flags.busy = false ∧ 1 ≤ s.position
  /-- A write transfer is busy, waits for at least one byte, and is ready. -/
  writing : s.xfer = .writeSectorIn ∨ s.xfer = .writeTrackIn →
    s.flags.busy = true ∧ s.position < s.used ∧ s.readyDelay = 1
  /-- Between two accesses `busy` holds only in a write transfer. -/
  busy : s.flags.busy = true → s.xfer = .writeSectorIn ∨ s.xfer = .writeTrackIn
  /-- `data_lost` is never set. -/
  dataLost : s.flags.dataLost = false
  /-- The `u16` range of `ra_counter`. -/
  raCounter : s.raCounter < 65536
  /-- The image files are canonical. -/
  files : filesWf s.files

/-! Terms the statements use. -/

/-- The state after the instructions of a list, one after the other; none where one of them does not answer a next
state. -/
def runAll : List Instr → State → Option State
  | [], s => some s
  | i :: rest, s =>
    match exec i s with
    | .next t => runAll rest t
    | .fault _ => none
    | .refused _ => none

/-- A poll: "a read of port offset 0 (status) or of offsets 4/5 (drive port)" (00_scope.md, glossary). -/
def isPoll (i : Instr) : Bool := i == .readStatus || i == .readDrivePort

/-- A guest that reads the drive port `n` times before each data byte (70_reset_and_hazards.md R286). -/
def pacedWrites (n : Nat) : List Byte → List Instr
  | [] => []
  | b :: bs => List.replicate n .readDrivePort ++ .writeData b :: pacedWrites n bs

/-- The type of a command (40_command_decoder.md R115). -/
def commandType : Command → CommandType
  | .restore _ | .seek _ | .step _ | .stepUpdate _ | .stepIn _ | .stepInUpdate _ | .stepOut _ | .stepOutUpdate _ => .typeI
  | .readSector _ | .readSectorMulti _ | .writeSector _ | .writeSectorMulti _ => .typeII
  | .readAddress _ | .readTrack _ | .writeTrack _ => .typeIII
  | .forceInterrupt => .typeIV

/-- The command an instruction issues: its own, or the one its command byte decodes to. -/
def issues (i : Instr) (k : Command) : Prop := i = k.toInstr ∨ ∃ c, i = .writeCommand c ∧ decodeCommand c = k

/-- The bits of a command byte that have no effect (30_encoding.md R100). -/
def ignoredBits (c : Byte) : Byte :=
  if topNibble c < 8 then 0x07#8 else if topNibble c = 13 then 0x0F#8 else 0x0D#8

/-- What every accepted Type I command leaves, apart from the direction, `TR` and the head (41_type1_commands.md R130,
R131; 40_command_decoder.md R112, R113, R118). -/
def typeIDone (s : State) (load seekError : Bool) : State :=
  { s with
    xfer := .idle, position := 0, used := 0, lastType := .typeI,
    flags :=
      { interruptRequest := decide (s.params.holdTypeI.val = 0), dataRequest := false, dataLost := false, busy := false,
        headLoaded := load && s.activeDrive.isSome, crcError := false, seekError := seekError,
        recordNotFound := false, writeFailProtected := false },
    busyDelay := if s.params.holdTypeI.val = 0 then s.busyDelay else s.params.holdTypeI.val }

/-- What a Step form leaves that moves in direction `dir` (41_type1_commands.md R140). -/
def stepDone (s : State) (load : Bool) (dir : StepDirection) (update : Bool) : State :=
  match s.activeDrive with
  | none => { typeIDone s load false with stepDirection := dir }
  | some a =>
    let track :=
      match dir with
      | .inwards => min ((s.drive a).currentTrack + 1) ((s.drive a).desc.tracks - 1)
      | .outwards => max ((s.drive a).currentTrack - 1) 0
    { typeIDone s load false with
      stepDirection := dir, drives := s.drives.set a { s.drive a with currentTrack := track },
      trackReg := if update then BitVec.ofNat 8 track else s.trackReg }

/-- What an accepted Type II or III command leaves that ends in the error completion with the flags `f`
(40_command_decoder.md R112, R117). -/
def commandFailed (s : State) (t : CommandType) (side : Bool) (f : Indicators) : State :=
  { s with
    xfer := .idle, position := 0, used := 0, lastType := t, side := side,
    flags := { f with dataRequest := false, busy := false, interruptRequest := true } }

/-- What an accepted ReadSector or ReadAddress leaves that streams `bytes` (45_transfer_engine.md R201). -/
def streamStarted (s : State) (t : CommandType) (side : Bool) (bytes : List Byte) : State :=
  { s with
    xfer := .readOut, buf := bytes ++ s.buf.drop bytes.length, used := bytes.length, position := 1,
    dataReg := bytes.getD 0 0, flags := Indicators.clear, byteDelay := s.params.byteDelay.polls, lastType := t,
    side := side }

/-- The state at the moment of a write commit: `DR` and the buffer hold the last byte (45_transfer_engine.md R204,
R205), and the transfer has ended with the flags `f`. -/
def commitEnded (s : State) (v : Byte) (f : Indicators) : State :=
  { s with
    dataReg := v, buf := s.buf.set s.position v, xfer := .idle, position := 0, used := 0,
    flags := { f with dataRequest := false, busy := false, interruptRequest := true } }

/-- Where a data-port write stores: the path, the offset the mapper gives and the number of bytes, where the byte is
the last of a sector write and no check fails (42_type2_commands.md R154); none where it stores nothing. -/
def State.commitTarget (s : State) : Option (String × Int × Nat) :=
  if s.xfer = .writeSectorIn ∧ s.flags.dataRequest = true ∧ s.position + 1 = s.used then
    match s.activeMedia with
    | none => none
    | some (d, p) =>
      if d.desc.writeProtect then none
      else if s.trackReg.toNat ≠ d.currentTrack then none
      else
        match s.sectorOffset d with
        | .error _ => none
        | .ok off => some (p, off, s.used)
  else none

/-- Every component of the state record at its reset value (10_state.md R48), the unspecified buffer contents left
out. -/
structure State.AtReset (s : State) : Prop where
  trackReg : s.trackReg = 0
  activeDrive : s.activeDrive = some 0
  sectorReg : s.sectorReg = 0
  dataReg : s.dataReg = 0
  side : s.side = false
  stepDirection : s.stepDirection = .outwards
  flags : s.flags.interruptRequest = false ∧ s.flags.dataRequest = false ∧ s.flags.dataLost = false ∧
    s.flags.busy = false ∧ s.flags.headLoaded = false ∧ s.flags.crcError = false ∧ s.flags.seekError = false ∧
    s.flags.recordNotFound = false ∧ s.flags.writeFailProtected = false
  readyDelay : s.readyDelay = 1
  busyDelay : s.busyDelay = 0
  byteDelay : s.byteDelay = 1
  indexCountdown : s.indexCountdown = s.params.indexPeriod.polls
  indexState : s.indexState = false
  xfer : s.xfer = .idle
  position : s.position = 0
  used : s.used = 0
  raCounter : s.raCounter = 0
  lastType : s.lastType = .typeI

/-- Two states that differ at most in the buffer bytes outside the current transfer (10_state.md R42): every other
field agrees, a read stream agrees on its `used` bytes, a write transfer on the bytes accepted so far. -/
structure SameButDeadBuffer (s t : State) : Prop where
  others : { t with buf := s.buf } = s
  lengths : s.buf.length = t.buf.length
  reading : s.xfer = .readOut → ∀ i, i < s.used → s.buf[i]? = t.buf[i]?
  writing : s.xfer = .writeSectorIn ∨ s.xfer = .writeTrackIn → ∀ i, i < s.position → s.buf[i]? = t.buf[i]?

/-- A legal sector of a drive: its track, side and sector lie in the geometry (10_state.md R33, 20_memory.md R65). -/
structure LegalSector (d : Descriptor) (track side sector : Int) : Prop where
  track : 0 ≤ track ∧ track < d.tracks
  side : 0 ≤ side ∧ side < d.heads
  sector : d.firstSectorNumber ≤ sector ∧ sector < d.firstSectorNumber + d.sectorsPerTrack

end Sys2Proof.Machine
end

