-- ==== Sys2Proof/Certificates/Slice0/Obligations.lean ====
section
/-! DEFINITION. The statements for the provers, family by family. Nothing is proved here. -/

open Sys2Proof Sys2Proof.Machine

/-! Encoding. -/

/-- Decoding an encoded instruction gives it back, with every operand at every value (30_encoding.md R90 to R99). -/
def Obligations.DecodeInvertsEncode : Prop :=
  ∀ i : Instr, i.wellFormed = true → decode (encode i) = i

/-- Encoding what was decoded gives the word back with its unused bits cleared: of a command byte the ignored bits
(30_encoding.md R100), of a port access bit 0 of the aliased offsets 4 to 7 and a read's data byte (R90). So no two
words decode alike but for those bits. -/
def Obligations.EncodeInvertsDecode : Prop :=
  (∀ c : Byte, encode (decode (.command c)) = .command (c &&& ~~~ignoredBits c)) ∧
  ∀ (a : AccessWord) (v : Byte),
    encode (decode (.access a v)) =
      .access (if a.getLsbD 2 then a &&& 0b1110#4 else a) (if a.getLsbD 3 then v else 0)

/-- 30_encoding.md R100: two command bytes that differ only in ignored bits behave identically. -/
def Obligations.CommandBytesIgnoreUnusedBits : Prop :=
  ∀ (c c' : Byte) (s : State),
    topNibble c = topNibble c' → c &&& ~~~ignoredBits c = c' &&& ~~~ignoredBits c →
      exec (.writeCommand c) s = exec (.writeCommand c') s

/-- A few words written out from the tables of 30_encoding.md and from vector X9 decode to their instructions. -/
def Obligations.WordsOfTheSpecDecode : Prop :=
  decode (.command 0b00001000#8) = .restore true ∧ decode (.command 0b00010000#8) = .seek false ∧
  decode (.command 0b01011000#8) = .stepInUpdate true ∧ decode (.command 0b10000010#8) = .readSector true ∧
  decode (.command 0b10100000#8) = .writeSector false ∧ decode (.command 0b11000010#8) = .readAddress true ∧
  decode (.command 0b11010000#8) = .forceInterrupt ∧ decode (.command 0b11110000#8) = .writeTrack false ∧
  decode (.access 0b0000#4 0) = .readStatus ∧ decode (.access 0b1000#4 0xD0#8) = .writeCommand 0xD0#8 ∧
  decode (.access 0b1011#4 0x5A#8) = .writeData 0x5A#8 ∧ decode (.access 0b0101#4 0) = .readDrivePort

/-- 46_status_and_ports.md R236 with 30_encoding.md R102: a write to offset 4 or 5 selects the drive of the lowest set
bit of the low nibble, or none, and changes nothing else. -/
def Obligations.DriveSelectTakesTheLowestBit : Prop :=
  ∀ (v : Byte) (s : State),
    (v &&& 0x0F#8 = 0#8 → exec (.writeDriveSelect v) s = .next { s with activeDrive := none }) ∧
    ∀ i : Fin 4, v.getLsbD i.val = true → (∀ j : Nat, j < i.val → v.getLsbD j = false) →
      exec (.writeDriveSelect v) s = .next { s with activeDrive := some i }

/-! The step and what reaches it. -/

/-- When the next pending event is a guest access, the step is `exec` of the decoded instruction, on the state without
that event. -/
def Obligations.StepRunsTheDecodedAccess : Prop :=
  ∀ (s : State) (w : FetchWord) (rest : List Event), s.pending = .guest w :: rest →
    step s = exec (decode w) { s with pending := rest }

/-- A numbered table word placed as the next event is run by the next step, whole and with nothing else (how an input
is presented and numbered is the model's choice, log entries 1 and 3). -/
def Obligations.PlacedTableWordRunsNext : Prop :=
  ∀ (s : State) (nbits w : Nat) (i : Instr), decodeTableWord nbits w = some i →
    step (s.withFetchWord nbits w) = exec i s

/-- With no pending event the block does not change (read from 00_scope.md R2; log entry 2). -/
def Obligations.NoEventNoChange : Prop :=
  ∀ s : State, s.pending = [] → step s = .next s

/-- 60_exceptions.md R271: a mount replaces one slot's descriptor and clamps its head, an unmount takes the media
away and leaves the rest of the slot (10_state.md R31, R34), a descriptor that breaks the preconditions is refused (the field widths among them are log entry 17's). -/
def Obligations.MountReplacesOneSlot : Prop :=
  ∀ (s : State) (a : Fin 4) (d : Descriptor) (rest : List Event),
    (s.pending = .mount a d :: rest → d.wellFormed = true →
      step s =
        .next
          { s with
            pending := rest,
            drives := s.drives.set a
              { desc := d, currentTrack := min (s.drive a).currentTrack (d.tracks - 1) } }) ∧
    (s.pending = .mount a d :: rest → d.wellFormed = false → step s = .refused .mountPrecondition) ∧
    (s.pending = .unmount a :: rest →
      ∃ t, step s = .next t ∧ { t with drives := s.drives } = { s with pending := rest } ∧
        t.drive a = { s.drive a with desc := { (s.drive a).desc with imagePath := none } } ∧
        ∀ b, b ≠ a → t.drive b = s.drive b)

/-- The host's file action: the file holds exactly the given bytes, or is gone, and every other file reads as before
(the model's form of "the host may also change image file contents between accesses"; log entry 18). That another
path is another file is the model's choice (log entry 21). -/
def Obligations.HostFileReplacesOneFile : Prop :=
  ∀ (s : State) (p : String) (c : Option (List Byte)) (rest : List Event),
    s.pending = .hostFile p c :: rest →
      ∃ t, step s = .next t ∧ { t with files := s.files } = { s with pending := rest } ∧
        (∀ a, t.fileByte p a = c.bind (fun bs => bs[a]?)) ∧
        ∀ q a, q ≠ p → t.fileByte q a = s.fileByte q a

/-- 70_reset_and_hazards.md R281: a hard reset puts every component of the state record at its reset value and leaves
descriptors, heads and image files. -/
def Obligations.HardResetRestoresResetValues : Prop :=
  ∀ (s : State) (rest : List Event), s.pending = .hardReset :: rest →
    ∃ t, step s = .next t ∧ t.AtReset ∧ t.drives = s.drives ∧ t.files = s.files ∧ t.params = s.params ∧
      t.log = s.log ∧ t.ioCount = s.ioCount ∧ t.pending = rest

/-- 70_reset_and_hazards.md R280: at system start every component is at its reset value and every head at track 0; no
drive is mounted (the model's choice of R280's two cases, log entry 12). -/
def Obligations.SystemStartValues : Prop :=
  State.reset.AtReset ∧
    ∀ a : Fin 4, (State.reset.drive a).currentTrack = 0 ∧ (State.reset.drive a).desc.imagePath = none

/-! The invariant. -/

/-- The invariant holds at system start, with the model's values of log entries 12 and 13. -/
def Obligations.InvariantAtSystemStart : Prop := State.reset.Inv

/-- Every step keeps the invariant: heads on their tracks, counters at or above their floors, position within used
within the buffer, DRQ only in a transfer, busy exactly in a write transfer, image files canonical (10_state.md R47). -/
def Obligations.EveryStepKeepsTheInvariant : Prop :=
  ∀ s t : State, s.Inv → step s = .next t → t.Inv

/-! The command port. -/

/-- 40_command_decoder.md R111: a command written while busy, other than ForceInterrupt, only logs. -/
def Obligations.CommandWhileBusyOnlyLogs : Prop :=
  ∀ (i : Instr) (k : Command) (s : State), issues i k → k ≠ .forceInterrupt → s.flags.busy = true →
    exec i s = .next { s with log := .droppedWhileBusy :: s.log }

/-- 40_command_decoder.md R110, R115: a byte written to offset 0 runs the command it decodes to; when the block is not
busy, the command is accepted and `last_type` is its type, and a Type II or III command samples the side bit. -/
def Obligations.WriteCommandRunsTheDecodedCommand : Prop :=
  ∀ (c : Byte) (s : State),
    exec (.writeCommand c) s = exec (decodeCommand c).toInstr s ∧
    (s.flags.busy = false →
      ∃ t, exec (.writeCommand c) s = .next t ∧ t.lastType = commandType (decodeCommand c) ∧
        (commandType (decodeCommand c) = .typeI ∨ commandType (decodeCommand c) = .typeIV → t.side = s.side) ∧
        (commandType (decodeCommand c) = .typeII ∨ commandType (decodeCommand c) = .typeIII →
          t.side = c.getLsbD 1))

/-! Type I. -/

/-- 41_type1_commands.md R132: Restore. -/
def Obligations.RestoreGoesToTrackZero : Prop :=
  ∀ (load : Bool) (s : State), s.flags.busy = false →
    (s.activeDrive = none →
      exec (.restore load) s =
        .next { typeIDone s load false with stepDirection := .outwards, trackReg := 0 }) ∧
    (∀ a, s.activeDrive = some a →
      exec (.restore load) s =
        .next
          { typeIDone s load false with
            stepDirection := .outwards, trackReg := 0,
            drives := s.drives.set a { s.drive a with currentTrack := 0 } })

/-- 41_type1_commands.md R133: Seek, with its three cases: no drive, unreachable target, target reached. -/
def Obligations.SeekGoesToTheDataRegister : Prop :=
  ∀ (load : Bool) (s : State), s.flags.busy = false →
    (s.activeDrive = none →
      exec (.seek load) s =
        .next
          { typeIDone s load true with
            stepDirection := if s.dataReg.toNat > s.trackReg.toNat then .inwards else .outwards,
            trackReg := s.dataReg }) ∧
    (∀ a, s.activeDrive = some a →
      ((s.dataReg.toNat : Int) > (s.drive a).desc.tracks - 1 →
        exec (.seek load) s =
          .next
            { typeIDone s load true with
              stepDirection := if s.dataReg.toNat > s.trackReg.toNat then .inwards else .outwards }) ∧
      ((s.dataReg.toNat : Int) ≤ (s.drive a).desc.tracks - 1 →
        exec (.seek load) s =
          .next
            { typeIDone s load false with
              stepDirection := if s.dataReg.toNat > s.trackReg.toNat then .inwards else .outwards,
              trackReg := s.dataReg,
              drives := s.drives.set a { s.drive a with currentTrack := s.dataReg.toNat } }))

/-- 41_type1_commands.md R134 to R140: the six Step forms move the head by one, clamped, and copy the new track into
`TR` in their update form only. -/
def Obligations.StepFormsMoveTheHeadByOne : Prop :=
  ∀ (load : Bool) (s : State), s.flags.busy = false →
    exec (.step load) s = .next (stepDone s load s.stepDirection false) ∧
    exec (.stepUpdate load) s = .next (stepDone s load s.stepDirection true) ∧
    exec (.stepIn load) s = .next (stepDone s load .inwards false) ∧
    exec (.stepInUpdate load) s = .next (stepDone s load .inwards true) ∧
    exec (.stepOut load) s = .next (stepDone s load .outwards false) ∧
    exec (.stepOutUpdate load) s = .next (stepDone s load .outwards true)

/-! Type II. -/

/-- 42_type2_commands.md R150: an accepted ReadSector on a ready drive whose track agrees loads the sector, shows its
first byte in `DR` and starts the read stream. -/
def Obligations.ReadSectorStartsTheStream : Prop :=
  ∀ (side : Bool) (s : State) (a : Fin 4) (p : String) (m : Memory) (off : Int),
    s.flags.busy = false → s.activeDrive = some a → (s.drive a).desc.imagePath = some p → s.readyDelay ≤ 1 →
    s.trackReg.toNat = (s.drive a).currentTrack →
    findOffset (s.drive a).desc s.trackReg.toNat side.toNat s.sectorReg.toNat = .ok off →
    filesFind s.files p = some m → 0 ≤ off → off + (s.drive a).desc.sectorSize ≤ m.size →
    (s.drive a).desc.sectorSize ≠ 0 → s.ioFails = false →
      exec (.readSector side) s =
        .next
          { streamStarted s .typeII side (m.readBytes off.toNat (s.drive a).desc.sectorSize) with
            ioDraws := s.ioDraws.tail, ioCount := s.ioCount + 1 }

/-- 42_type2_commands.md R150 with 40_command_decoder.md R120: the faults of ReadSector in the order of their checks,
each with its flags; only the host I/O error makes an image access and sets `ready_delay`. -/
def Obligations.ReadSectorFaultsInOrder : Prop :=
  ∀ (side : Bool) (s : State), s.flags.busy = false →
    (s.activeDrive = none ∨ (∃ a, s.activeDrive = some a ∧ (s.drive a).desc.imagePath = none) ∨ s.readyDelay > 1 →
      exec (.readSector side) s =
        .next (commandFailed s .typeII side { Indicators.clear with recordNotFound := true })) ∧
    ∀ (a : Fin 4) (p : String),
      s.activeDrive = some a → (s.drive a).desc.imagePath = some p → s.readyDelay ≤ 1 →
      (s.trackReg.toNat ≠ (s.drive a).currentTrack →
        exec (.readSector side) s =
          .next (commandFailed s .typeII side { Indicators.clear with recordNotFound := true })) ∧
      (s.trackReg.toNat = (s.drive a).currentTrack →
        (∀ e, findOffset (s.drive a).desc s.trackReg.toNat side.toNat s.sectorReg.toNat = .error e →
          exec (.readSector side) s =
            .next (commandFailed s .typeII side { Indicators.clear with recordNotFound := true })) ∧
        (∀ off, findOffset (s.drive a).desc s.trackReg.toNat side.toNat s.sectorReg.toNat = .ok off →
          s.memRead p off (s.drive a).desc.sectorSize = none →
          exec (.readSector side) s =
            .next
              { commandFailed s .typeII side { Indicators.clear with crcError := true, recordNotFound := true } with
                readyDelay := s.params.readyDelayIoErr.polls,
                ioDraws := s.ioDraws.tail, ioCount := s.ioCount + 1 }))

/-- 42_type2_commands.md R151, R153: an accepted multi-sector command logs and ends with `record_not_found` and the
interrupt, whatever the drive. -/
def Obligations.MultiSectorIsUnsupported : Prop :=
  ∀ (side : Bool) (s : State), s.flags.busy = false →
    exec (.readSectorMulti side) s =
      .next
        { commandFailed s .typeII side { Indicators.clear with recordNotFound := true } with
          log := .unsupportedCommand :: s.log } ∧
    exec (.writeSectorMulti side) s =
      .next
        { commandFailed s .typeII side { Indicators.clear with recordNotFound := true } with
          log := .unsupportedCommand :: s.log }

/-- 42_type2_commands.md R152, 43_type3_commands.md R174: an accepted WriteSector or WriteTrack on a ready drive that
is not write-protected arms the transfer and stays busy; no image access is made. -/
def Obligations.WriteCommandsArmTheTransfer : Prop :=
  ∀ (side : Bool) (s : State) (a : Fin 4) (p : String),
    s.flags.busy = false → s.activeDrive = some a → (s.drive a).desc.imagePath = some p → s.readyDelay ≤ 1 →
    (s.drive a).desc.writeProtect = false →
      exec (.writeSector side) s =
        .next
          { s with
            xfer := .writeSectorIn, position := 0, used := (s.drive a).desc.sectorSize,
            flags := { Indicators.clear with busy := true }, byteDelay := s.params.byteDelay.polls,
            lastType := .typeII, side := side } ∧
      exec (.writeTrack side) s =
        .next
          { s with
            xfer := .writeTrackIn, position := 0, used := (s.drive a).desc.sectorSize,
            flags := { Indicators.clear with busy := true }, byteDelay := s.params.byteDelay.polls,
            lastType := .typeIII, side := side }

/-- 60_exceptions.md R251, R252: the write commands on a drive that is not ready, or that is write-protected, end with
their flag; no image access is made. -/
def Obligations.WriteCommandFaults : Prop :=
  ∀ (side : Bool) (s : State), s.flags.busy = false →
    (s.activeDrive = none ∨ (∃ a, s.activeDrive = some a ∧ (s.drive a).desc.imagePath = none) ∨ s.readyDelay > 1 →
      exec (.writeSector side) s =
        .next (commandFailed s .typeII side { Indicators.clear with recordNotFound := true }) ∧
      exec (.writeTrack side) s =
        .next (commandFailed s .typeIII side { Indicators.clear with recordNotFound := true })) ∧
    (∀ (a : Fin 4) (p : String), s.activeDrive = some a → (s.drive a).desc.imagePath = some p → s.readyDelay ≤ 1 →
      (s.drive a).desc.writeProtect = true →
      exec (.writeSector side) s =
        .next (commandFailed s .typeII side { Indicators.clear with writeFailProtected := true }) ∧
      exec (.writeTrack side) s =
        .next (commandFailed s .typeIII side { Indicators.clear with writeFailProtected := true }))

/-! Type III. -/

/-- 43_type3_commands.md R170, R171, R172: an accepted ReadAddress on a ready drive advances the round-robin counter
into `SR` and streams the six-byte record of the drive's physical track; it opens no file. -/
def Obligations.ReadAddressStreamsTheRecord : Prop :=
  ∀ (side : Bool) (s : State) (a : Fin 4) (p : String) (z : Byte),
    s.flags.busy = false → s.activeDrive = some a → (s.drive a).desc.imagePath = some p → s.readyDelay ≤ 1 →
    ((s.drive a).desc.sectorSize, z) ∈ [(128, 0#8), (256, 1#8), (512, 2#8), (1024, 3#8)] →
      ∃ (n : Nat) (t sd sc : Byte) (crc : BitVec 16),
        n = (if s.raCounter + 1 > (s.drive a).desc.sectorsPerTrack then 0 else s.raCounter + 1) ∧
        t = BitVec.ofNat 8 (s.drive a).currentTrack ∧ sd = (if side then 1#8 else 0#8) ∧ sc = BitVec.ofNat 8 n ∧
        crc = Config.raCrc t sd sc z ∧
        exec (.readAddress side) s =
          .next
            { streamStarted s .typeIII side [t, sd, sc, z, crc.extractLsb' 0 8, crc.extractLsb' 8 8] with
              raCounter := n, sectorReg := sc }

/-- 43_type3_commands.md R172: from a counter within the drive's sector count, repeated ReadAddress commands cycle the
counter through the numbers 0 to `sectors_per_track`. -/
def Obligations.ReadAddressCyclesTheCounter : Prop :=
  ∀ (side : Bool) (s : State) (a : Fin 4) (p : String) (k : Nat),
    s.flags.busy = false → s.activeDrive = some a → (s.drive a).desc.imagePath = some p → s.readyDelay ≤ 1 →
    s.raCounter ≤ (s.drive a).desc.sectorsPerTrack →
      ∃ t, runAll (List.replicate k (.readAddress side)) s = some t ∧
        t.raCounter = (s.raCounter + k) % ((s.drive a).desc.sectorsPerTrack + 1) ∧
        (k ≠ 0 → t.sectorReg.toNat = t.raCounter % 256)

/-- 43_type3_commands.md R173: an accepted ReadTrack with media only ends; without media it fails like every Type II or
III command. ReadAddress, too, makes only that check. -/
def Obligations.ReadTrackOnlyEnds : Prop :=
  ∀ (side : Bool) (s : State), s.flags.busy = false →
    (∀ (a : Fin 4) (p : String), s.activeDrive = some a → (s.drive a).desc.imagePath = some p → s.readyDelay ≤ 1 →
      exec (.readTrack side) s =
        .next
          { s with
            xfer := .idle, position := 0, used := 0, flags := Indicators.clear, lastType := .typeIII,
            side := side }) ∧
    (s.activeDrive = none ∨ (∃ a, s.activeDrive = some a ∧ (s.drive a).desc.imagePath = none) ∨ s.readyDelay > 1 →
      exec (.readTrack side) s =
        .next (commandFailed s .typeIII side { Indicators.clear with recordNotFound := true }) ∧
      exec (.readAddress side) s =
        .next (commandFailed s .typeIII side { Indicators.clear with recordNotFound := true }))

/-! Type IV. -/

/-- 44_type4_command.md R190: ForceInterrupt, busy or not. -/
def Obligations.ForceInterruptEndsAndHolds : Prop :=
  ∀ s : State,
    (s.flags.busy = true →
      exec .forceInterrupt s =
        .next
          { s with
            xfer := .idle, position := 0, used := 0,
            flags := { s.flags with dataRequest := false, busy := false },
            busyDelay := s.params.holdForce.polls, lastType := .typeIV }) ∧
    (s.flags.busy = false →
      exec .forceInterrupt s =
        .next
          { s with
            xfer := .idle, position := 0, used := 0, flags := Indicators.clear,
            busyDelay := s.params.holdForce.polls, lastType := .typeIV })

/-! The status byte and the drive port. -/

/-- 46_status_and_ports.md R227, R228: bit by bit, what a status read returns in the Type I layout. -/
def Obligations.StatusByteTypeI : Prop :=
  ∀ s : State, s.lastType = .typeI ∨ s.lastType = .typeIV →
    ∃ t v, exec .readStatus s = .next t ∧ t.lastRead = some v ∧
      v.getLsbD 7 = decide (s.readyDelay > 1) ∧
      v.getLsbD 6 = (s.activeDrive.map fun a => (s.drive a).desc.writeProtect).getD false ∧
      v.getLsbD 5 = s.flags.headLoaded ∧ v.getLsbD 4 = s.flags.seekError ∧ v.getLsbD 3 = s.flags.crcError ∧
      v.getLsbD 2 = (s.activeDrive.map fun a => decide ((s.drive a).currentTrack = 0)).getD false ∧
      v.getLsbD 1 = s.indexState ∧ v.getLsbD 0 = (s.flags.busy || decide (s.busyDelay > 0))

/-- 46_status_and_ports.md R227, R229: bit by bit, what a status read returns in the Type II/III layout. -/
def Obligations.StatusByteTypeII : Prop :=
  ∀ s : State, s.lastType = .typeII ∨ s.lastType = .typeIII →
    ∃ t v, exec .readStatus s = .next t ∧ t.lastRead = some v ∧
      v.getLsbD 7 = decide (s.readyDelay > 1) ∧ v.getLsbD 6 = s.flags.writeFailProtected ∧ v.getLsbD 5 = false ∧
      v.getLsbD 4 = s.flags.recordNotFound ∧ v.getLsbD 3 = s.flags.crcError ∧ v.getLsbD 2 = s.flags.dataLost ∧
      v.getLsbD 1 = false ∧ v.getLsbD 0 = (s.flags.busy || decide (s.busyDelay > 0))

/-- 46_status_and_ports.md R222 to R225, R227: what a status read does to the counters and flags, and to nothing
else. -/
def Obligations.StatusReadTicksAllCounters : Prop :=
  ∀ s : State, 1 ≤ s.indexCountdown →
    ∃ t, exec .readStatus s = .next t ∧
      t =
        { s with
          byteDelay :=
            if s.xfer ≠ .idle ∧ s.flags.dataRequest = false ∧ s.byteDelay > 1 then s.byteDelay - 1 else s.byteDelay,
          flags :=
            { s.flags with
              dataRequest := s.flags.dataRequest || decide (s.xfer ≠ .idle ∧ s.byteDelay ≤ 1),
              interruptRequest := s.flags.interruptRequest || decide (s.busyDelay = 1) },
          readyDelay := if s.readyDelay > 1 then s.readyDelay - 1 else s.readyDelay,
          busyDelay := s.busyDelay - 1,
          indexCountdown := if s.indexCountdown = 1 then s.params.indexPeriod.polls else s.indexCountdown - 1,
          indexState := if s.indexCountdown = 1 then !s.indexState else s.indexState,
          lastRead := t.lastRead }

/-- 46_status_and_ports.md R230: the drive-port byte, bit by bit, and what the read does to the counters. -/
def Obligations.DrivePortReadTicksByteAndReady : Prop :=
  ∀ s : State,
    ∃ t v, exec .readDrivePort s = .next t ∧
      v.getLsbD 0 = s.flags.interruptRequest ∧ v.getLsbD 1 = decide (s.readyDelay > 1) ∧
      v.getLsbD 7 = (s.flags.dataRequest || decide (s.xfer ≠ .idle ∧ s.byteDelay ≤ 1)) ∧
      v &&& 0x7C#8 = 0#8 ∧
      t =
        { s with
          byteDelay :=
            if s.xfer ≠ .idle ∧ s.flags.dataRequest = false ∧ s.byteDelay > 1 then s.byteDelay - 1 else s.byteDelay,
          flags :=
            { s.flags with dataRequest := s.flags.dataRequest || decide (s.xfer ≠ .idle ∧ s.byteDelay ≤ 1) },
          readyDelay := if s.readyDelay > 1 then s.readyDelay - 1 else s.readyDelay,
          lastRead := some v }

/-! The register ports. -/

/-- 46_status_and_ports.md R231, R233: the track and sector registers read as `0xFF` while not ready, where
`NR_ADDR_FF`, and as their value otherwise; the read has no other effect. -/
def Obligations.AddressRegisterReads : Prop :=
  ∀ s : State,
    (s.params.nrAddrFf = true ∧
        (s.activeDrive = none ∨ (∃ a, s.activeDrive = some a ∧ (s.drive a).desc.imagePath = none) ∨ s.readyDelay > 1) →
      exec .readTrackRegister s = .next { s with lastRead := some 0xFF#8 } ∧
      exec .readSectorRegister s = .next { s with lastRead := some 0xFF#8 }) ∧
    (s.params.nrAddrFf = false ∨
        (∃ a p, s.activeDrive = some a ∧ (s.drive a).desc.imagePath = some p ∧ s.readyDelay ≤ 1) →
      exec .readTrackRegister s = .next { s with lastRead := some s.trackReg } ∧
      exec .readSectorRegister s = .next { s with lastRead := some s.sectorReg })

/-- 46_status_and_ports.md R232, R234: a write to offset 1 or 2 sets its register, busy or not, and nothing else. -/
def Obligations.AddressRegisterWrites : Prop :=
  ∀ (v : Byte) (s : State),
    exec (.writeTrackRegister v) s = .next { s with trackReg := v } ∧
    exec (.writeSectorRegister v) s = .next { s with sectorReg := v }

/-- 46_status_and_ports.md R237: an unmapped read returns `0xFF`, an unmapped write is ignored. -/
def Obligations.UnmappedOffsets : Prop :=
  ∀ (v : Byte) (s : State),
    exec .readUnmapped s = .next { s with lastRead := some 0xFF#8 } ∧ exec (.writeUnmapped v) s = .next s

/-! The data port. -/

/-- 45_transfer_engine.md R203: the three cases of a data-port read. -/
def Obligations.DataReadMovesTheStream : Prop :=
  ∀ s : State,
    (s.xfer ≠ .readOut → exec .readData s = .next { s with lastRead := some s.dataReg }) ∧
    (s.xfer = .readOut → s.position < s.used →
      exec .readData s =
        .next
          { s with
            lastRead := some s.dataReg, dataReg := s.buf.getD s.position 0, position := s.position + 1,
            flags := { s.flags with dataRequest := false }, byteDelay := s.params.byteDelay.polls }) ∧
    (s.xfer = .readOut → s.used ≤ s.position →
      exec .readData s =
        .next
          { s with
            lastRead := some s.dataReg, xfer := .idle, position := 0, used := 0,
            flags := { s.flags with dataRequest := false, interruptRequest := true } })

/-- 45_transfer_engine.md R203: from an armed read stream, the reads give the `used` bytes of the buffer in order, and
the last of them ends the transfer with the interrupt; no poll is needed. -/
def Obligations.ReadStreamDeliversTheBuffer : Prop :=
  ∀ s : State, s.xfer = .readOut → s.position = 1 → 1 ≤ s.used → s.used ≤ s.buf.length →
    s.dataReg = s.buf.getD 0 0 →
      (∀ k, k < s.used →
        ∃ t, runAll (List.replicate (k + 1) .readData) s = some t ∧ t.lastRead = some (s.buf.getD k 0)) ∧
      ∃ t, runAll (List.replicate s.used .readData) s = some t ∧ t.xfer = .idle ∧ t.position = 0 ∧ t.used = 0 ∧
        t.flags = { s.flags with dataRequest := false, interruptRequest := true }

/-- 45_transfer_engine.md R204, R205, R206: a data-port write outside a write transfer only sets `DR`; without DRQ it
is logged and ignored but for `DR`; with DRQ, before the last byte, it is put into the buffer. None stores to a file. -/
def Obligations.DataWriteBeforeTheLastByte : Prop :=
  ∀ (v : Byte) (s : State),
    (s.xfer = .idle ∨ s.xfer = .readOut → exec (.writeData v) s = .next { s with dataReg := v }) ∧
    (s.xfer = .writeSectorIn ∨ s.xfer = .writeTrackIn →
      (s.flags.dataRequest = false →
        exec (.writeData v) s = .next { s with dataReg := v, log := .unexpectedDataByte :: s.log }) ∧
      (s.flags.dataRequest = true → s.position + 1 ≠ s.used →
        exec (.writeData v) s =
          .next
            { s with
              dataReg := v, buf := s.buf.set s.position v, position := s.position + 1,
              flags := { s.flags with dataRequest := false }, byteDelay := s.params.byteDelay.polls }))

/-- 45_transfer_engine.md R205, R207: in an armed write transfer, bytes each preceded by `BYTE_DELAY` polls are all
accepted, in order, as long as the last one is still to come. -/
def Obligations.PacedBytesFillTheBuffer : Prop :=
  ∀ (s : State) (bs : List Byte), s.xfer = .writeSectorIn ∨ s.xfer = .writeTrackIn → s.flags.dataRequest = false →
    s.byteDelay = s.params.byteDelay.polls → s.position = 0 → bs.length < s.used → s.used ≤ s.buf.length →
      ∃ t, runAll (pacedWrites s.params.byteDelay.polls bs) s = some t ∧ t.xfer = s.xfer ∧ t.used = s.used ∧
        t.position = bs.length ∧ t.buf.take bs.length = bs ∧ t.flags.dataRequest = false ∧ t.files = s.files

/-- 42_type2_commands.md R154: the last byte of a sector write whose checks pass and whose access returns `Ok` puts the
`used` bytes into the image at the mapper's offset, changes no other byte of any image, and ends the command. That the
bytes at another path are another file's is the model's choice (log entry 21). -/
def Obligations.CommitWritesTheSector : Prop :=
  ∀ (v : Byte) (s : State) (d : Drive) (p : String) (off : Int),
    s.Inv → s.xfer = .writeSectorIn → s.flags.dataRequest = true → s.position + 1 = s.used →
    s.activeMedia = some (d, p) → d.desc.writeProtect = false → s.trackReg.toNat = d.currentTrack →
    findOffset d.desc s.trackReg.toNat s.side.toNat s.sectorReg.toNat = .ok off → s.memWriteOk p off s.used = true →
      ∃ t, exec (.writeData v) s = .next t ∧
        (∀ i, i < s.used → t.fileByte p (off.toNat + i) = some ((s.buf.set s.position v).getD i 0)) ∧
        (∀ (q : String) (b : Nat), (q ≠ p ∨ (b : Int) < off ∨ off + s.used ≤ b) → t.fileByte q b = s.fileByte q b) ∧
        { t with files := s.files } =
          { commitEnded s v s.flags with ioDraws := s.ioDraws.tail, ioCount := s.ioCount + 1 }

/-- 42_type2_commands.md R154: the faults of the write commit in the order of their checks. The first four make no
image access; the host I/O error leaves `ready_delay`. That a failed write leaves every byte outside its range is the
model's choice (log entry 9; 20_memory.md R67 speaks of the range only), and so is that it leaves the bytes at other
paths (log entry 21). -/
def Obligations.CommitFaultsInOrder : Prop :=
  ∀ (v : Byte) (s : State), s.Inv → s.xfer = .writeSectorIn → s.flags.dataRequest = true → s.position + 1 = s.used →
    (s.activeDrive = none ∨ (∃ a, s.activeDrive = some a ∧ (s.drive a).desc.imagePath = none) →
      exec (.writeData v) s = .next (commitEnded s v { s.flags with recordNotFound := true })) ∧
    ∀ (a : Fin 4) (p : String), s.activeDrive = some a → (s.drive a).desc.imagePath = some p →
      ((s.drive a).desc.writeProtect = true →
        exec (.writeData v) s = .next (commitEnded s v { s.flags with writeFailProtected := true })) ∧
      ((s.drive a).desc.writeProtect = false → s.trackReg.toNat ≠ (s.drive a).currentTrack →
        exec (.writeData v) s = .next (commitEnded s v { s.flags with recordNotFound := true })) ∧
      ((s.drive a).desc.writeProtect = false → s.trackReg.toNat = (s.drive a).currentTrack →
        (∀ e, findOffset (s.drive a).desc s.trackReg.toNat s.side.toNat s.sectorReg.toNat = .error e →
          exec (.writeData v) s = .next (commitEnded s v { s.flags with recordNotFound := true })) ∧
        (∀ off, findOffset (s.drive a).desc s.trackReg.toNat s.side.toNat s.sectorReg.toNat = .ok off →
          s.memWriteOk p off s.used = false →
          ∃ t, exec (.writeData v) s = .next t ∧
            (∀ (q : String) (b : Nat), (q ≠ p ∨ (b : Int) < off ∨ off + s.used ≤ b) → t.fileByte q b = s.fileByte q b) ∧
            { t with files := s.files } =
              { commitEnded s v { s.flags with crcError := true, recordNotFound := true } with
                ioDraws := s.ioDraws.tail, ioCount := s.ioCount + 1 }))

/-- 43_type3_commands.md R175: the last byte of a WriteTrack ends the command and changes no image; the buffer's
`used` bytes become the erase byte. -/
def Obligations.WriteTrackCommitTouchesNoImage : Prop :=
  ∀ (v : Byte) (s : State), s.xfer = .writeTrackIn → s.flags.dataRequest = true → s.position + 1 = s.used →
    exec (.writeData v) s =
      .next
        { commitEnded s v s.flags with
          buf := List.replicate s.used s.params.eraseByte ++ (s.buf.set s.position v).drop s.used }

/-- The store of a data-port write, at the address the commit computes: every byte outside it reads as before, and a
write that stores nothing leaves every byte. For a write that fails this is the model's choice (log entry 9), and so is
that the bytes at other paths are other files' (log entry 21). -/
def Obligations.DataWriteStoresOnlyAtItsTarget : Prop :=
  ∀ (v : Byte) (s t : State), s.Inv → exec (.writeData v) s = .next t →
    (s.commitTarget = none → ∀ q b, t.fileByte q b = s.fileByte q b) ∧
    ∀ p off n, s.commitTarget = some (p, off, n) →
      ∀ (q : String) (b : Nat), (q ≠ p ∨ (b : Int) < off ∨ off + n ≤ b) → t.fileByte q b = s.fileByte q b

/-! Polls. -/

/-- 45_transfer_engine.md R207: while a transfer waits with `byte_delay = N`, the N-th poll, on either port, is the
first that raises DRQ. -/
def Obligations.DataRequestComesOnTheNthPoll : Prop :=
  ∀ (s : State) (polls : List Instr), (∀ i ∈ polls, isPoll i = true) →
    s.xfer ≠ .idle → s.flags.dataRequest = false → 1 ≤ s.byteDelay →
      ∃ t, runAll polls s = some t ∧ t.flags.dataRequest = decide (s.byteDelay ≤ polls.length) ∧
        t.byteDelay = max 1 (s.byteDelay - polls.length)

/-- 46_status_and_ports.md R224: the hold is counted by status reads only, and the read that brings it to 0 raises the
interrupt. -/
def Obligations.HoldEndsOnTheNthStatusRead : Prop :=
  ∀ (s : State) (polls : List Instr), (∀ i ∈ polls, isPoll i = true) → 1 ≤ s.busyDelay →
    ∃ t, runAll polls s = some t ∧ t.busyDelay = s.busyDelay - polls.count .readStatus ∧
      t.flags.interruptRequest = (s.flags.interruptRequest || decide (s.busyDelay ≤ polls.count .readStatus))

/-- 46_status_and_ports.md R223: with `ready_delay = N`, polls 1 to N - 1 leave the block not ready and poll N reads
ready. -/
def Obligations.ReadyOnTheNthPoll : Prop :=
  ∀ (s : State) (polls : List Instr), (∀ i ∈ polls, isPoll i = true) → 1 ≤ s.readyDelay →
    ∃ t, runAll polls s = some t ∧ t.readyDelay = max 1 (s.readyDelay - polls.length)

/-- 46_status_and_ports.md R225: the index bit stays at one value for `INDEX_PERIOD` status reads and then toggles;
drive-port reads do not count. -/
def Obligations.IndexTogglesEveryPeriod : Prop :=
  ∀ (s : State) (polls : List Instr), (∀ i ∈ polls, isPoll i = true) →
    s.indexCountdown = s.params.indexPeriod.polls →
      ∃ t, runAll polls s = some t ∧
        t.indexState = (s.indexState != decide (polls.count .readStatus / s.params.indexPeriod.polls % 2 = 1)) ∧
        t.indexCountdown = s.params.indexPeriod.polls - polls.count .readStatus % s.params.indexPeriod.polls

/-! Rules of the whole machine. -/

/-- 40_command_decoder.md R121: from a block that is not busy, only a WriteSector or a WriteTrack leaves it busy. -/
def Obligations.OnlyWriteCommandsLeaveTheBlockBusy : Prop :=
  ∀ (i : Instr) (s t : State), s.flags.busy = false → exec i s = .next t → t.flags.busy = true →
    ∃ side, issues i (.writeSector side) ∨ issues i (.writeTrack side)

/-- 60_exceptions.md R258: the interrupt request is cleared only by a command accepted while the block is not busy. -/
def Obligations.InterruptClearedOnlyByAcceptedCommands : Prop :=
  ∀ (i : Instr) (s t : State), s.flags.interruptRequest = true → exec i s = .next t →
    t.flags.interruptRequest = false → s.flags.busy = false ∧ ∃ k, issues i k

/-- 10_state.md R31, R32: a port access never changes a descriptor, and moves a head only as a Type I command of the
active drive. -/
def Obligations.HeadsMoveOnlyByTypeICommands : Prop :=
  ∀ (i : Instr) (s t : State), exec i s = .next t →
    (∀ a, (t.drive a).desc = (s.drive a).desc) ∧
    ∀ a, (t.drive a).currentTrack ≠ (s.drive a).currentTrack →
      s.activeDrive = some a ∧ ∃ k, issues i k ∧ commandType k = .typeI

/-- 10_state.md R24, R25, R27, R43: who may change the side, the active drive, the step direction and the round-robin
counter; and the parameters of 00_scope.md R7 never change. -/
def Obligations.RegistersChangeOnlyByTheirWriters : Prop :=
  ∀ (i : Instr) (s t : State), exec i s = .next t →
    t.params = s.params ∧
    (t.side ≠ s.side → ∃ k, issues i k ∧ (commandType k = .typeII ∨ commandType k = .typeIII)) ∧
    (t.activeDrive ≠ s.activeDrive → ∃ v, i = .writeDriveSelect v) ∧
    (t.stepDirection ≠ s.stepDirection → ∃ k, issues i k ∧ commandType k = .typeI) ∧
    (t.raCounter ≠ s.raCounter → ∃ b, issues i (.readAddress b))

/-- 45_transfer_engine.md R208, 44_type4_command.md R191: no port access but a data-port write changes any image, and
only ReadSector and a data-port write make an image access, at most one each. -/
def Obligations.ImagesChangeOnlyByDataWrites : Prop :=
  ∀ (i : Instr) (s t : State), exec i s = .next t →
    ((∀ v, i ≠ .writeData v) → t.files = s.files) ∧
    (t.ioCount = s.ioCount ∨ t.ioCount = s.ioCount + 1) ∧
    (t.ioCount ≠ s.ioCount → (∃ v, i = .writeData v) ∨ ∃ b, issues i (.readSector b))

/-- 10_state.md R42: the buffer's bytes outside the current transfer are unobservable. Two states that differ only
there run every instruction to states that again differ only there, with the same byte returned to the guest. -/
def Obligations.DeadBufferBytesAreUnobservable : Prop :=
  ∀ (i : Instr) (s s' t t' : State), s.Inv → SameButDeadBuffer s s' →
    exec i s = .next t → exec i s' = .next t' → SameButDeadBuffer t t' ∧ t.lastRead = t'.lastRead

/-! The mapper and the image. -/

/-- 20_memory.md R70, R71: the mapper's two errors, checked in that order, and the offset in both layouts, over the
side after the swap and the track after the reversal of that side. -/
def Obligations.MapperFollowsTheFormula : Prop :=
  ∀ (d : Descriptor) (track side sector side' track' : Int),
    side' = (if d.sidesSwapped then 1 - side else side) →
    track' = (if (if side' = 0 then d.reverseSide0 else d.reverseSide1) then d.tracks - track else track) →
      (side' > d.heads → findOffset d track side sector = .error .invalidHead) ∧
      (side' ≤ d.heads → sector < d.firstSectorNumber → findOffset d track side sector = .error .sectorBelowFirst) ∧
      (side' ≤ d.heads → d.firstSectorNumber ≤ sector → d.interleaved = true →
        findOffset d track side sector =
          .ok
            (d.sectorSize * d.sectorsPerTrack * (track' * d.heads) + d.sectorSize * d.sectorsPerTrack * side' +
              d.sectorSize * (sector - d.firstSectorNumber))) ∧
      (side' ≤ d.heads → d.firstSectorNumber ≤ sector → d.interleaved = false →
        findOffset d track side sector =
          .ok
            (d.sectorSize * d.sectorsPerTrack * track' + d.sectorSize * d.sectorsPerTrack * d.tracks * side' +
              d.sectorSize * (sector - d.firstSectorNumber)))

/-- 20_memory.md R71: as the block calls the mapper, "the offset is never negative". -/
def Obligations.SectorOffsetsAreNeverNegative : Prop :=
  ∀ (s : State) (a : Fin 4) (side : Bool) (off : Int),
    s.Inv → s.trackReg.toNat = (s.drive a).currentTrack →
    findOffset (s.drive a).desc s.trackReg.toNat side.toNat s.sectorReg.toNat = .ok off → 0 ≤ off

/-- 20_memory.md R65, R70: without swap and reversal, a legal sector lies inside an image of the geometry's size. -/
def Obligations.LegalSectorsLieInsideTheImage : Prop :=
  ∀ (d : Descriptor) (track side sector : Int),
    d.sidesSwapped = false → d.reverseSide0 = false → d.reverseSide1 = false → LegalSector d track side sector →
      ∃ off, findOffset d track side sector = .ok off ∧ 0 ≤ off ∧
        off + d.sectorSize ≤ d.heads * d.tracks * d.sectorsPerTrack * d.sectorSize

/-- 20_memory.md R65, R70: without swap and reversal, two legal sectors whose bytes overlap are the same sector. -/
def Obligations.LegalSectorsDoNotOverlap : Prop :=
  ∀ (d : Descriptor) (t1 h1 r1 t2 h2 r2 off1 off2 : Int),
    d.sidesSwapped = false → d.reverseSide0 = false → d.reverseSide1 = false →
    LegalSector d t1 h1 r1 → LegalSector d t2 h2 r2 →
    findOffset d t1 h1 r1 = .ok off1 → findOffset d t2 h2 r2 = .ok off2 →
    off1 < off2 + d.sectorSize → off2 < off1 + d.sectorSize →
      t1 = t2 ∧ h1 = h2 ∧ r1 = r2

/-- 20_memory.md R74: bytes written by an access that returned `Ok` are what a later read of the same range returns, in
every state with the same files whose own access does not fail. -/
def Obligations.CommittedBytesReadBack : Prop :=
  ∀ (s u : State) (p : String) (off : Int) (vs : List Byte),
    filesWf s.files → s.memWriteOk p off vs.length = true → u.files = (s.memWritten p off vs).files →
    u.ioFails = false → u.memRead p off vs.length = some vs

/-- 42_type2_commands.md R154, R150 together (the source's sector round trip): after the last byte of a sector write is
committed, a ReadSector of the same sector streams exactly the bytes the transfer collected. -/
def Obligations.WrittenSectorIsReadBack : Prop :=
  ∀ (v : Byte) (s t u : State) (d : Drive) (p : String) (off : Int),
    s.Inv → s.xfer = .writeSectorIn → s.flags.dataRequest = true → s.position + 1 = s.used →
    s.activeMedia = some (d, p) → d.desc.writeProtect = false → s.trackReg.toNat = d.currentTrack →
    findOffset d.desc s.trackReg.toNat s.side.toNat s.sectorReg.toNat = .ok off → s.memWriteOk p off s.used = true →
    s.used = d.desc.sectorSize → t.ioFails = false →
    exec (.writeData v) s = .next t → exec (.readSector s.side) t = .next u →
      u.xfer = .readOut ∧ u.used = s.used ∧ u.dataReg = (s.buf.set s.position v).getD 0 0 ∧
        u.buf.take u.used = (s.buf.set s.position v).take s.used
end

