-- ==== Sys2Proof/Laws/Memory.lean ====
section
/-! SUPPORT. Image files: every operation keeps the canonical form, and what a read sees after a write. -/

namespace Sys2Proof.Machine

/-! Cells. -/

theorem mem_cellsWrite {cs : List Host.Cell} {a : Nat} {v : Byte} {c : Host.Cell} (h : c ∈ cellsWrite cs a v) :
    c ∈ cs ∨ (c = (a, v) ∧ v ≠ blankByte) := by
  induction cs with
  | nil => simp only [cellsWrite] at h; split at h <;> simp_all
  | cons d rest ih =>
    simp only [cellsWrite] at h
    split at h
    · split at h <;> simp_all
      tauto
    · split at h
      · split at h <;> simp_all
        tauto
      · rcases List.mem_cons.mp h with rfl | h
        · simp
        · rcases ih h with h | h
          · exact .inl (List.mem_cons_of_mem _ h)
          · exact .inr h

theorem cellsWrite_sorted {cs : List Host.Cell} (h : cs.Pairwise (fun c d => c.1 < d.1)) (a : Nat) (v : Byte) :
    (cellsWrite cs a v).Pairwise (fun c d => c.1 < d.1) := by
  induction cs with
  | nil => simp only [cellsWrite]; split <;> simp
  | cons d rest ih =>
    obtain ⟨hd, hr⟩ := List.pairwise_cons.mp h
    simp only [cellsWrite]
    split
    · rename_i hlt
      split
      · exact h
      · refine List.pairwise_cons.mpr ⟨fun c hc => ?_, h⟩
        rcases List.mem_cons.mp hc with rfl | hc
        · exact hlt
        · exact hlt.trans (hd c hc)
    · split
      · rename_i heq
        split
        · exact hr
        · exact List.pairwise_cons.mpr ⟨fun c hc => heq ▸ hd c hc, hr⟩
      · refine List.pairwise_cons.mpr ⟨fun c hc => ?_, ih hr⟩
        rcases mem_cellsWrite hc with hc | ⟨rfl, -⟩
        · exact hd c hc
        · show d.1 < a; omega

theorem cellsRead_of_below {cs : List Host.Cell} {a : Nat} (h : ∀ c ∈ cs, a < c.1) : cellsRead cs a = blankByte := by
  induction cs with
  | nil => rfl
  | cons d rest ih =>
    have := h d (by simp)
    simp only [cellsRead, if_neg (by omega : ¬ d.1 = a)]
    exact ih fun c hc => h c (by simp [hc])

theorem cellsRead_cellsWrite {cs : List Host.Cell} (h : cs.Pairwise (fun c d => c.1 < d.1)) (a b : Nat) (v : Byte) :
    cellsRead (cellsWrite cs a v) b = if b = a then v else cellsRead cs b := by
  induction cs with
  | nil =>
    by_cases hv : v = blankByte
    · by_cases hb : b = a <;> simp [cellsWrite, cellsRead, hv]
    · by_cases hb : b = a
      · simp [cellsWrite, cellsRead, hv, hb]
      · simp [cellsWrite, cellsRead, hv, hb, Ne.symm hb]
  | cons d rest ih =>
    obtain ⟨hd, hr⟩ := List.pairwise_cons.mp h
    simp only [cellsWrite]
    by_cases hlt : a < d.1
    · rw [if_pos hlt]
      by_cases hv : v = blankByte
      · rw [if_pos hv]
        by_cases hb : b = a
        · subst hb
          rw [if_pos rfl, hv]
          refine cellsRead_of_below fun c hc => ?_
          rcases List.mem_cons.mp hc with rfl | hc
          · exact hlt
          · exact hlt.trans (hd c hc)
        · rw [if_neg hb]
      · rw [if_neg hv]
        by_cases hb : b = a
        · simp [cellsRead, hb]
        · simp [cellsRead, hb, Ne.symm hb]
    · rw [if_neg hlt]
      by_cases heq : a = d.1
      · rw [if_pos heq]
        by_cases hv : v = blankByte
        · rw [if_pos hv]
          by_cases hb : b = a
          · rw [if_pos hb, hv, hb, heq]
            exact cellsRead_of_below hd
          · simp [cellsRead, hb, show ¬ d.1 = b by omega]
        · rw [if_neg hv]
          by_cases hb : b = a
          · simp [cellsRead, hb]
          · simp [cellsRead, hb, Ne.symm hb, show ¬ d.1 = b by omega]
      · rw [if_neg heq]
        simp only [cellsRead]
        by_cases hb : d.1 = b
        · rw [if_pos hb, if_pos hb, if_neg (by omega)]
        · rw [if_neg hb, if_neg hb, ih hr]

theorem mem_cellsOfBytes {bs : List Byte} {a : Nat} {c : Host.Cell} (h : c ∈ cellsOfBytes a bs) :
    a ≤ c.1 ∧ c.1 < a + bs.length ∧ c.2 ≠ blankByte := by
  induction bs generalizing a with
  | nil => simp [cellsOfBytes] at h
  | cons b bs ih =>
    simp only [cellsOfBytes] at h
    split at h
    · obtain ⟨h1, h2, h3⟩ := ih h
      exact ⟨by omega, by simp only [List.length_cons]; omega, h3⟩
    · rename_i hb
      rcases List.mem_cons.mp h with rfl | h
      · simp [hb]
      · obtain ⟨h1, h2, h3⟩ := ih h
        exact ⟨by omega, by simp only [List.length_cons]; omega, h3⟩

theorem cellsOfBytes_sorted (bs : List Byte) (a : Nat) : (cellsOfBytes a bs).Pairwise (fun c d => c.1 < d.1) := by
  induction bs generalizing a with
  | nil => simp [cellsOfBytes]
  | cons b bs ih =>
    simp only [cellsOfBytes]
    split
    · exact ih _
    · exact List.pairwise_cons.mpr ⟨fun c hc => (mem_cellsOfBytes hc).1, ih _⟩

/-! One file. -/

theorem Memory.ofBytes_wf (bs : List Byte) : (Memory.ofBytes bs).wf :=
  ⟨cellsOfBytes_sorted bs 0, fun c hc => by have := mem_cellsOfBytes hc; simp_all [Memory.ofBytes]⟩

@[simp] theorem Memory.write_size (m : Memory) (a : Nat) (v : Byte) : (m.write a v).size = m.size := by
  simp only [Memory.write]; split <;> rfl

theorem Memory.write_wf {m : Memory} (h : m.wf) (a : Nat) (v : Byte) : (m.write a v).wf := by
  simp only [Memory.write]
  split
  · rename_i ha
    refine ⟨cellsWrite_sorted h.1 a v, fun c hc => ?_⟩
    rcases mem_cellsWrite hc with hc | ⟨rfl, hv⟩
    · exact h.2 c hc
    · exact ⟨hv, ha⟩
  · exact h

theorem Memory.read_write {m : Memory} (h : m.wf) (a b : Nat) (v : Byte) :
    (m.write a v).read b = if b = a ∧ a < m.size then v else m.read b := by
  simp only [Memory.write, Memory.read]
  split
  · rename_i ha; simp [cellsRead_cellsWrite h.1, ha]
  · rename_i ha; simp [ha]

@[simp] theorem Memory.writeBytes_size (m : Memory) (a : Nat) (bs : List Byte) : (m.writeBytes a bs).size = m.size := by
  induction bs generalizing m a with
  | nil => rfl
  | cons b bs ih => simp [Memory.writeBytes, ih]

theorem Memory.writeBytes_wf {m : Memory} (h : m.wf) (a : Nat) (bs : List Byte) : (m.writeBytes a bs).wf := by
  induction bs generalizing m a with
  | nil => exact h
  | cons b bs ih => exact ih (Memory.write_wf h a b) (a + 1)

/-- What a file reads as after a run of bytes is written: the bytes in their range, the old bytes outside it. -/
theorem Memory.read_writeBytes {m : Memory} (h : m.wf) (a : Nat) (bs : List Byte) (b : Nat) :
    (m.writeBytes a bs).read b =
      if a ≤ b ∧ b < a + bs.length ∧ b < m.size then bs.getD (b - a) 0 else m.read b := by
  induction bs generalizing m a with
  | nil => rw [Memory.writeBytes, if_neg (by simp only [List.length_nil]; omega)]
  | cons v bs ih =>
    rw [Memory.writeBytes, ih (Memory.write_wf h a v), Memory.read_write h, Memory.write_size]
    by_cases hab : a + 1 ≤ b
    · obtain ⟨k, rfl⟩ := Nat.exists_eq_add_of_le hab
      have h1 : a + 1 + k - (a + 1) = k := by omega
      have h2 : a + 1 + k - a = k + 1 := by omega
      rw [h1, h2, List.getD_cons_succ]
      by_cases hc : a + 1 + k < a + 1 + bs.length ∧ a + 1 + k < m.size
      · rw [if_pos ⟨by omega, hc⟩, if_pos ⟨by omega, by simp only [List.length_cons]; omega, hc.2⟩]
      · rw [if_neg (by tauto), if_neg (by omega), if_neg (by simp only [List.length_cons]; omega)]
    · rw [if_neg (by omega)]
      by_cases hb : b = a
      · subst hb; simp
      · rw [if_neg (by omega), if_neg (by omega)]

@[simp] theorem Memory.readBytes_length (m : Memory) (a n : Nat) : (m.readBytes a n).length = n := by
  simp [Memory.readBytes]

/-- Reading back a run of bytes that was written inside the file. -/
theorem Memory.readBytes_writeBytes {m : Memory} (h : m.wf) {a : Nat} {bs : List Byte}
    (hin : a + bs.length ≤ m.size) : (m.writeBytes a bs).readBytes a bs.length = bs := by
  apply List.ext_getElem
  · simp
  · intro i h1 h2
    simp only [Memory.readBytes, List.getElem_map, List.getElem_range]
    rw [Memory.read_writeBytes h, if_pos ⟨by omega, by omega, by omega⟩]
    simp [List.getD_eq_getElem?_getD, h2]

/-! The files. -/

theorem filesFind_filesPut (fs : List ImageFile) (p q : String) (m : Memory) :
    filesFind (filesPut fs p m) q = if q = p then some m else filesFind fs q := by
  induction fs with
  | nil => simp [filesPut, filesFind, eq_comm]
  | cons f rest ih =>
    simp only [filesPut]
    by_cases h1 : p < f.path
    · simp [h1, filesFind, eq_comm]
    · by_cases h2 : p = f.path
      · subst h2
        rw [if_neg h1, if_pos rfl]
        by_cases hq : q = f.path
        · simp [filesFind, hq]
        · simp [filesFind, hq, Ne.symm hq]
      · simp only [h1, h2, if_false, filesFind, ih]
        by_cases h3 : f.path = q
        · rw [if_pos h3, if_pos h3, if_neg (fun h => h2 (h.symm.trans h3.symm))]
        · rw [if_neg h3, if_neg h3]

theorem mem_filesPut {fs : List ImageFile} {p : String} {m : Memory} {f : ImageFile} (h : f ∈ filesPut fs p m) :
    f ∈ fs ∨ f = { path := p, mem := m } := by
  induction fs with
  | nil => exact .inr (by simpa [filesPut] using h)
  | cons g rest ih =>
    simp only [filesPut] at h
    split at h
    · rcases List.mem_cons.mp h with h | h
      · exact .inr h
      · exact .inl h
    · split at h
      · rcases List.mem_cons.mp h with h | h
        · exact .inr h
        · exact .inl (List.mem_cons_of_mem _ h)
      · rcases List.mem_cons.mp h with rfl | h
        · simp
        · rcases ih h with h | h
          · exact .inl (List.mem_cons_of_mem _ h)
          · exact .inr h

theorem filesPut_wf {fs : List ImageFile} (h : filesWf fs) (p : String) {m : Memory} (hm : m.wf) :
    filesWf (filesPut fs p m) := by
  refine ⟨?_, fun f hf => ?_⟩
  · have hs := h.1
    clear h
    induction fs with
    | nil => simp [filesPut]
    | cons g rest ih =>
      obtain ⟨hg, hr⟩ := List.pairwise_cons.mp hs
      simp only [filesPut]
      split
      · rename_i hlt
        refine List.pairwise_cons.mpr ⟨fun f hf => ?_, hs⟩
        rcases List.mem_cons.mp hf with rfl | hf
        · exact hlt
        · exact lt_trans hlt (hg f hf)
      · rename_i hnl
        split
        · rename_i heq
          exact List.pairwise_cons.mpr ⟨fun f hf => heq ▸ hg f hf, hr⟩
        · rename_i hne
          refine List.pairwise_cons.mpr ⟨fun f hf => ?_, ih hr⟩
          rcases mem_filesPut hf with hf | rfl
          · exact hg f hf
          · exact lt_of_le_of_ne (not_lt.mp hnl) (Ne.symm hne)
  · rcases mem_filesPut hf with hf | rfl
    · exact h.2 f hf
    · exact hm

theorem filesDrop_wf {fs : List ImageFile} (h : filesWf fs) (p : String) : filesWf (filesDrop fs p) :=
  ⟨h.1.filter _, fun f hf => h.2 f (List.mem_filter.mp hf).1⟩

theorem filesFind_wf {fs : List ImageFile} (h : filesWf fs) {p : String} {m : Memory} (hf : filesFind fs p = some m) :
    m.wf := by
  have hall := h.2
  clear h
  induction fs with
  | nil => simp [filesFind] at hf
  | cons g rest ih =>
    simp only [filesFind] at hf
    split at hf
    · cases hf; exact hall g (by simp)
    · exact ih hf fun f hm => hall f (by simp [hm])

/-! The two accesses. -/

/-- `MemRead` returns bytes exactly where the file is there, the range lies in it and the draw does not fail. -/
theorem State.memRead_eq_some {s : State} {p : String} {off : Int} {n : Nat} {bs : List Byte} :
    s.memRead p off n = some bs ↔
      ∃ m, filesFind s.files p = some m ∧ 0 ≤ off ∧ off + n ≤ m.size ∧ s.ioFails = false
        ∧ bs = m.readBytes off.toNat n := by
  simp only [State.memRead, inFile]
  split
  · simp_all
  · rename_i m hm
    by_cases h : 0 ≤ off ∧ off + n ≤ m.size <;> cases hf : s.ioFails <;> simp_all <;> grind

/-- The bytes `MemRead` returns are as many as asked for. -/
theorem State.memRead_length {s : State} {p : String} {off : Int} {n : Nat} {bs : List Byte}
    (h : s.memRead p off n = some bs) : bs.length = n := by
  obtain ⟨m, -, -, -, -, rfl⟩ := State.memRead_eq_some.mp h
  simp

/-- `MemWrite` returns `Ok` exactly where the file is there, the range lies in it and the draw does not fail. -/
theorem State.memWriteOk_iff {s : State} {p : String} {off : Int} {n : Nat} :
    s.memWriteOk p off n = true ↔
      ∃ m, filesFind s.files p = some m ∧ 0 ≤ off ∧ off + n ≤ m.size ∧ s.ioFails = false := by
  simp only [State.memWriteOk, inFile]
  split
  · simp_all
  · rename_i m hm
    by_cases h : 0 ≤ off ∧ off + n ≤ m.size <;> cases hf : s.ioFails <;> simp_all

@[simp] theorem tornBytes_length (serial n : Nat) : (tornBytes serial n).length = n := by simp [tornBytes]

/-- Everything a write access can do to the files: nothing, or some bytes in its range. -/
theorem State.memWritten_files (s : State) (p : String) (off : Int) (vs : List Byte) :
    (s.memWritten p off vs).files = s.files ∨
      ∃ m left, filesFind s.files p = some m ∧ 0 ≤ off ∧ left.length = vs.length ∧
        (s.memWriteOk p off vs.length = true → left = vs) ∧
        (s.memWritten p off vs).files = filesPut s.files p (m.writeBytes off.toNat left) := by
  simp only [State.memWritten]
  split
  · exact .inl rfl
  · rename_i m hm
    split
    · rename_i h0
      refine .inr ⟨m, _, hm, h0, ?_, ?_, rfl⟩
      · split <;> simp
      · intro h; rw [if_pos h]
    · exact .inl rfl

theorem State.memWritten_filesWf {s : State} (h : filesWf s.files) (p : String) (off : Int) (vs : List Byte) :
    filesWf (s.memWritten p off vs).files := by
  rcases s.memWritten_files p off vs with he | ⟨m, left, hm, -, -, -, he⟩
  · rw [he]; exact h
  · rw [he]; exact filesPut_wf h p (Memory.writeBytes_wf (filesFind_wf h hm) _ _)

/-- A write access leaves every byte outside its range as it was. -/
theorem State.memWritten_fileByte_outside {s : State} (h : filesWf s.files) {p : String} {off : Int} {vs : List Byte}
    {q : String} {a : Nat} (hout : q ≠ p ∨ (a : Int) < off ∨ off + vs.length ≤ a) :
    (s.memWritten p off vs).fileByte q a = s.fileByte q a := by
  simp only [State.fileByte]
  rcases s.memWritten_files p off vs with he | ⟨m, left, hm, h0, hl, -, he⟩
  · rw [he]
  · rw [he, filesFind_filesPut]
    by_cases hq : q = p
    · subst hq
      rw [if_pos rfl, hm]
      simp only [Memory.writeBytes_size]
      have hz := Int.toNat_of_nonneg h0
      have hr : ¬ (off.toNat ≤ a ∧ a < off.toNat + left.length ∧ a < m.size) := by
        rintro ⟨h1, h2, -⟩
        rcases hout with hout | hout | hout
        · exact hout rfl
        · omega
        · omega
      rw [Memory.read_writeBytes (filesFind_wf h hm), if_neg hr]
    · rw [if_neg hq]

/-- A write access that returns `Ok` leaves its bytes in the file. -/
theorem State.memWritten_ok_find {s : State} {p : String} {off : Int} {vs : List Byte}
    (hok : s.memWriteOk p off vs.length = true) :
    ∃ m, filesFind s.files p = some m ∧
      filesFind (s.memWritten p off vs).files p = some (m.writeBytes off.toNat vs) := by
  obtain ⟨m, hm, h0, -, -⟩ := State.memWriteOk_iff.mp hok
  refine ⟨m, hm, ?_⟩
  simp [State.memWritten, hm, h0, hok, filesFind_filesPut]

end Sys2Proof.Machine
end

