-- ==== Sys2Proof/Laws/State.lean ====
section
/-! SUPPORT. What each named update of the state leaves in each field, so that no proof unfolds a record update. -/

namespace Sys2Proof.Machine


/-! `State.logged`. -/

@[simp] theorem State.logged_trackReg (s : State) (e : LogEvent) : (s.logged e).trackReg = s.trackReg := rfl
@[simp] theorem State.logged_sectorReg (s : State) (e : LogEvent) : (s.logged e).sectorReg = s.sectorReg := rfl
@[simp] theorem State.logged_dataReg (s : State) (e : LogEvent) : (s.logged e).dataReg = s.dataReg := rfl
@[simp] theorem State.logged_side (s : State) (e : LogEvent) : (s.logged e).side = s.side := rfl
@[simp] theorem State.logged_activeDrive (s : State) (e : LogEvent) : (s.logged e).activeDrive = s.activeDrive := rfl
@[simp] theorem State.logged_stepDirection (s : State) (e : LogEvent) : (s.logged e).stepDirection = s.stepDirection := rfl
@[simp] theorem State.logged_flags (s : State) (e : LogEvent) : (s.logged e).flags = s.flags := rfl
@[simp] theorem State.logged_drives (s : State) (e : LogEvent) : (s.logged e).drives = s.drives := rfl
@[simp] theorem State.logged_readyDelay (s : State) (e : LogEvent) : (s.logged e).readyDelay = s.readyDelay := rfl
@[simp] theorem State.logged_busyDelay (s : State) (e : LogEvent) : (s.logged e).busyDelay = s.busyDelay := rfl
@[simp] theorem State.logged_byteDelay (s : State) (e : LogEvent) : (s.logged e).byteDelay = s.byteDelay := rfl
@[simp] theorem State.logged_indexCountdown (s : State) (e : LogEvent) : (s.logged e).indexCountdown = s.indexCountdown := rfl
@[simp] theorem State.logged_indexState (s : State) (e : LogEvent) : (s.logged e).indexState = s.indexState := rfl
@[simp] theorem State.logged_xfer (s : State) (e : LogEvent) : (s.logged e).xfer = s.xfer := rfl
@[simp] theorem State.logged_buf (s : State) (e : LogEvent) : (s.logged e).buf = s.buf := rfl
@[simp] theorem State.logged_position (s : State) (e : LogEvent) : (s.logged e).position = s.position := rfl
@[simp] theorem State.logged_used (s : State) (e : LogEvent) : (s.logged e).used = s.used := rfl
@[simp] theorem State.logged_raCounter (s : State) (e : LogEvent) : (s.logged e).raCounter = s.raCounter := rfl
@[simp] theorem State.logged_lastType (s : State) (e : LogEvent) : (s.logged e).lastType = s.lastType := rfl
@[simp] theorem State.logged_files (s : State) (e : LogEvent) : (s.logged e).files = s.files := rfl
@[simp] theorem State.logged_params (s : State) (e : LogEvent) : (s.logged e).params = s.params := rfl
@[simp] theorem State.logged_log (s : State) (e : LogEvent) : (s.logged e).log = e :: s.log := rfl
@[simp] theorem State.logged_lastRead (s : State) (e : LogEvent) : (s.logged e).lastRead = s.lastRead := rfl
@[simp] theorem State.logged_ioDraws (s : State) (e : LogEvent) : (s.logged e).ioDraws = s.ioDraws := rfl
@[simp] theorem State.logged_ioCount (s : State) (e : LogEvent) : (s.logged e).ioCount = s.ioCount := rfl
@[simp] theorem State.logged_pending (s : State) (e : LogEvent) : (s.logged e).pending = s.pending := rfl

/-! `State.returning`. -/

@[simp] theorem State.returning_trackReg (s : State) (v : Byte) : (s.returning v).trackReg = s.trackReg := rfl
@[simp] theorem State.returning_sectorReg (s : State) (v : Byte) : (s.returning v).sectorReg = s.sectorReg := rfl
@[simp] theorem State.returning_dataReg (s : State) (v : Byte) : (s.returning v).dataReg = s.dataReg := rfl
@[simp] theorem State.returning_side (s : State) (v : Byte) : (s.returning v).side = s.side := rfl
@[simp] theorem State.returning_activeDrive (s : State) (v : Byte) : (s.returning v).activeDrive = s.activeDrive := rfl
@[simp] theorem State.returning_stepDirection (s : State) (v : Byte) : (s.returning v).stepDirection = s.stepDirection := rfl
@[simp] theorem State.returning_flags (s : State) (v : Byte) : (s.returning v).flags = s.flags := rfl
@[simp] theorem State.returning_drives (s : State) (v : Byte) : (s.returning v).drives = s.drives := rfl
@[simp] theorem State.returning_readyDelay (s : State) (v : Byte) : (s.returning v).readyDelay = s.readyDelay := rfl
@[simp] theorem State.returning_busyDelay (s : State) (v : Byte) : (s.returning v).busyDelay = s.busyDelay := rfl
@[simp] theorem State.returning_byteDelay (s : State) (v : Byte) : (s.returning v).byteDelay = s.byteDelay := rfl
@[simp] theorem State.returning_indexCountdown (s : State) (v : Byte) : (s.returning v).indexCountdown = s.indexCountdown := rfl
@[simp] theorem State.returning_indexState (s : State) (v : Byte) : (s.returning v).indexState = s.indexState := rfl
@[simp] theorem State.returning_xfer (s : State) (v : Byte) : (s.returning v).xfer = s.xfer := rfl
@[simp] theorem State.returning_buf (s : State) (v : Byte) : (s.returning v).buf = s.buf := rfl
@[simp] theorem State.returning_position (s : State) (v : Byte) : (s.returning v).position = s.position := rfl
@[simp] theorem State.returning_used (s : State) (v : Byte) : (s.returning v).used = s.used := rfl
@[simp] theorem State.returning_raCounter (s : State) (v : Byte) : (s.returning v).raCounter = s.raCounter := rfl
@[simp] theorem State.returning_lastType (s : State) (v : Byte) : (s.returning v).lastType = s.lastType := rfl
@[simp] theorem State.returning_files (s : State) (v : Byte) : (s.returning v).files = s.files := rfl
@[simp] theorem State.returning_params (s : State) (v : Byte) : (s.returning v).params = s.params := rfl
@[simp] theorem State.returning_log (s : State) (v : Byte) : (s.returning v).log = s.log := rfl
@[simp] theorem State.returning_lastRead (s : State) (v : Byte) : (s.returning v).lastRead = some v := rfl
@[simp] theorem State.returning_ioDraws (s : State) (v : Byte) : (s.returning v).ioDraws = s.ioDraws := rfl
@[simp] theorem State.returning_ioCount (s : State) (v : Byte) : (s.returning v).ioCount = s.ioCount := rfl
@[simp] theorem State.returning_pending (s : State) (v : Byte) : (s.returning v).pending = s.pending := rfl

/-! `State.ioTaken`. -/

@[simp] theorem State.ioTaken_trackReg (s : State) : (s.ioTaken).trackReg = s.trackReg := rfl
@[simp] theorem State.ioTaken_sectorReg (s : State) : (s.ioTaken).sectorReg = s.sectorReg := rfl
@[simp] theorem State.ioTaken_dataReg (s : State) : (s.ioTaken).dataReg = s.dataReg := rfl
@[simp] theorem State.ioTaken_side (s : State) : (s.ioTaken).side = s.side := rfl
@[simp] theorem State.ioTaken_activeDrive (s : State) : (s.ioTaken).activeDrive = s.activeDrive := rfl
@[simp] theorem State.ioTaken_stepDirection (s : State) : (s.ioTaken).stepDirection = s.stepDirection := rfl
@[simp] theorem State.ioTaken_flags (s : State) : (s.ioTaken).flags = s.flags := rfl
@[simp] theorem State.ioTaken_drives (s : State) : (s.ioTaken).drives = s.drives := rfl
@[simp] theorem State.ioTaken_readyDelay (s : State) : (s.ioTaken).readyDelay = s.readyDelay := rfl
@[simp] theorem State.ioTaken_busyDelay (s : State) : (s.ioTaken).busyDelay = s.busyDelay := rfl
@[simp] theorem State.ioTaken_byteDelay (s : State) : (s.ioTaken).byteDelay = s.byteDelay := rfl
@[simp] theorem State.ioTaken_indexCountdown (s : State) : (s.ioTaken).indexCountdown = s.indexCountdown := rfl
@[simp] theorem State.ioTaken_indexState (s : State) : (s.ioTaken).indexState = s.indexState := rfl
@[simp] theorem State.ioTaken_xfer (s : State) : (s.ioTaken).xfer = s.xfer := rfl
@[simp] theorem State.ioTaken_buf (s : State) : (s.ioTaken).buf = s.buf := rfl
@[simp] theorem State.ioTaken_position (s : State) : (s.ioTaken).position = s.position := rfl
@[simp] theorem State.ioTaken_used (s : State) : (s.ioTaken).used = s.used := rfl
@[simp] theorem State.ioTaken_raCounter (s : State) : (s.ioTaken).raCounter = s.raCounter := rfl
@[simp] theorem State.ioTaken_lastType (s : State) : (s.ioTaken).lastType = s.lastType := rfl
@[simp] theorem State.ioTaken_files (s : State) : (s.ioTaken).files = s.files := rfl
@[simp] theorem State.ioTaken_params (s : State) : (s.ioTaken).params = s.params := rfl
@[simp] theorem State.ioTaken_log (s : State) : (s.ioTaken).log = s.log := rfl
@[simp] theorem State.ioTaken_lastRead (s : State) : (s.ioTaken).lastRead = s.lastRead := rfl
@[simp] theorem State.ioTaken_ioDraws (s : State) : (s.ioTaken).ioDraws = s.ioDraws.tail := rfl
@[simp] theorem State.ioTaken_ioCount (s : State) : (s.ioTaken).ioCount = s.ioCount + 1 := rfl
@[simp] theorem State.ioTaken_pending (s : State) : (s.ioTaken).pending = s.pending := rfl

/-! `State.endTransfer`. -/

@[simp] theorem State.endTransfer_trackReg (s : State) : (s.endTransfer).trackReg = s.trackReg := rfl
@[simp] theorem State.endTransfer_sectorReg (s : State) : (s.endTransfer).sectorReg = s.sectorReg := rfl
@[simp] theorem State.endTransfer_dataReg (s : State) : (s.endTransfer).dataReg = s.dataReg := rfl
@[simp] theorem State.endTransfer_side (s : State) : (s.endTransfer).side = s.side := rfl
@[simp] theorem State.endTransfer_activeDrive (s : State) : (s.endTransfer).activeDrive = s.activeDrive := rfl
@[simp] theorem State.endTransfer_stepDirection (s : State) : (s.endTransfer).stepDirection = s.stepDirection := rfl
@[simp] theorem State.endTransfer_flags (s : State) : (s.endTransfer).flags = s.flags := rfl
@[simp] theorem State.endTransfer_drives (s : State) : (s.endTransfer).drives = s.drives := rfl
@[simp] theorem State.endTransfer_readyDelay (s : State) : (s.endTransfer).readyDelay = s.readyDelay := rfl
@[simp] theorem State.endTransfer_busyDelay (s : State) : (s.endTransfer).busyDelay = s.busyDelay := rfl
@[simp] theorem State.endTransfer_byteDelay (s : State) : (s.endTransfer).byteDelay = s.byteDelay := rfl
@[simp] theorem State.endTransfer_indexCountdown (s : State) : (s.endTransfer).indexCountdown = s.indexCountdown := rfl
@[simp] theorem State.endTransfer_indexState (s : State) : (s.endTransfer).indexState = s.indexState := rfl
@[simp] theorem State.endTransfer_xfer (s : State) : (s.endTransfer).xfer = .idle := rfl
@[simp] theorem State.endTransfer_buf (s : State) : (s.endTransfer).buf = s.buf := rfl
@[simp] theorem State.endTransfer_position (s : State) : (s.endTransfer).position = 0 := rfl
@[simp] theorem State.endTransfer_used (s : State) : (s.endTransfer).used = 0 := rfl
@[simp] theorem State.endTransfer_raCounter (s : State) : (s.endTransfer).raCounter = s.raCounter := rfl
@[simp] theorem State.endTransfer_lastType (s : State) : (s.endTransfer).lastType = s.lastType := rfl
@[simp] theorem State.endTransfer_files (s : State) : (s.endTransfer).files = s.files := rfl
@[simp] theorem State.endTransfer_params (s : State) : (s.endTransfer).params = s.params := rfl
@[simp] theorem State.endTransfer_log (s : State) : (s.endTransfer).log = s.log := rfl
@[simp] theorem State.endTransfer_lastRead (s : State) : (s.endTransfer).lastRead = s.lastRead := rfl
@[simp] theorem State.endTransfer_ioDraws (s : State) : (s.endTransfer).ioDraws = s.ioDraws := rfl
@[simp] theorem State.endTransfer_ioCount (s : State) : (s.endTransfer).ioCount = s.ioCount := rfl
@[simp] theorem State.endTransfer_pending (s : State) : (s.endTransfer).pending = s.pending := rfl

/-! `State.clearIndicators`. -/

@[simp] theorem State.clearIndicators_trackReg (s : State) : (s.clearIndicators).trackReg = s.trackReg := rfl
@[simp] theorem State.clearIndicators_sectorReg (s : State) : (s.clearIndicators).sectorReg = s.sectorReg := rfl
@[simp] theorem State.clearIndicators_dataReg (s : State) : (s.clearIndicators).dataReg = s.dataReg := rfl
@[simp] theorem State.clearIndicators_side (s : State) : (s.clearIndicators).side = s.side := rfl
@[simp] theorem State.clearIndicators_activeDrive (s : State) : (s.clearIndicators).activeDrive = s.activeDrive := rfl
@[simp] theorem State.clearIndicators_stepDirection (s : State) : (s.clearIndicators).stepDirection = s.stepDirection := rfl
@[simp] theorem State.clearIndicators_flags (s : State) : (s.clearIndicators).flags = Indicators.clear := rfl
@[simp] theorem State.clearIndicators_drives (s : State) : (s.clearIndicators).drives = s.drives := rfl
@[simp] theorem State.clearIndicators_readyDelay (s : State) : (s.clearIndicators).readyDelay = s.readyDelay := rfl
@[simp] theorem State.clearIndicators_busyDelay (s : State) : (s.clearIndicators).busyDelay = s.busyDelay := rfl
@[simp] theorem State.clearIndicators_byteDelay (s : State) : (s.clearIndicators).byteDelay = s.byteDelay := rfl
@[simp] theorem State.clearIndicators_indexCountdown (s : State) : (s.clearIndicators).indexCountdown = s.indexCountdown := rfl
@[simp] theorem State.clearIndicators_indexState (s : State) : (s.clearIndicators).indexState = s.indexState := rfl
@[simp] theorem State.clearIndicators_xfer (s : State) : (s.clearIndicators).xfer = s.xfer := rfl
@[simp] theorem State.clearIndicators_buf (s : State) : (s.clearIndicators).buf = s.buf := rfl
@[simp] theorem State.clearIndicators_position (s : State) : (s.clearIndicators).position = s.position := rfl
@[simp] theorem State.clearIndicators_used (s : State) : (s.clearIndicators).used = s.used := rfl
@[simp] theorem State.clearIndicators_raCounter (s : State) : (s.clearIndicators).raCounter = s.raCounter := rfl
@[simp] theorem State.clearIndicators_lastType (s : State) : (s.clearIndicators).lastType = s.lastType := rfl
@[simp] theorem State.clearIndicators_files (s : State) : (s.clearIndicators).files = s.files := rfl
@[simp] theorem State.clearIndicators_params (s : State) : (s.clearIndicators).params = s.params := rfl
@[simp] theorem State.clearIndicators_log (s : State) : (s.clearIndicators).log = s.log := rfl
@[simp] theorem State.clearIndicators_lastRead (s : State) : (s.clearIndicators).lastRead = s.lastRead := rfl
@[simp] theorem State.clearIndicators_ioDraws (s : State) : (s.clearIndicators).ioDraws = s.ioDraws := rfl
@[simp] theorem State.clearIndicators_ioCount (s : State) : (s.clearIndicators).ioCount = s.ioCount := rfl
@[simp] theorem State.clearIndicators_pending (s : State) : (s.clearIndicators).pending = s.pending := rfl

/-! `State.prologue`. -/

@[simp] theorem State.prologue_trackReg (s : State) (t : CommandType) (b : Option Bool) : (s.prologue t b).trackReg = s.trackReg := rfl
@[simp] theorem State.prologue_sectorReg (s : State) (t : CommandType) (b : Option Bool) : (s.prologue t b).sectorReg = s.sectorReg := rfl
@[simp] theorem State.prologue_dataReg (s : State) (t : CommandType) (b : Option Bool) : (s.prologue t b).dataReg = s.dataReg := rfl
@[simp] theorem State.prologue_side (s : State) (t : CommandType) (b : Option Bool) : (s.prologue t b).side = b.getD s.side := rfl
@[simp] theorem State.prologue_activeDrive (s : State) (t : CommandType) (b : Option Bool) : (s.prologue t b).activeDrive = s.activeDrive := rfl
@[simp] theorem State.prologue_stepDirection (s : State) (t : CommandType) (b : Option Bool) : (s.prologue t b).stepDirection = s.stepDirection := rfl
@[simp] theorem State.prologue_flags (s : State) (t : CommandType) (b : Option Bool) : (s.prologue t b).flags = { Indicators.clear with busy := true } := rfl
@[simp] theorem State.prologue_drives (s : State) (t : CommandType) (b : Option Bool) : (s.prologue t b).drives = s.drives := rfl
@[simp] theorem State.prologue_readyDelay (s : State) (t : CommandType) (b : Option Bool) : (s.prologue t b).readyDelay = s.readyDelay := rfl
@[simp] theorem State.prologue_busyDelay (s : State) (t : CommandType) (b : Option Bool) : (s.prologue t b).busyDelay = s.busyDelay := rfl
@[simp] theorem State.prologue_byteDelay (s : State) (t : CommandType) (b : Option Bool) : (s.prologue t b).byteDelay = s.byteDelay := rfl
@[simp] theorem State.prologue_indexCountdown (s : State) (t : CommandType) (b : Option Bool) : (s.prologue t b).indexCountdown = s.indexCountdown := rfl
@[simp] theorem State.prologue_indexState (s : State) (t : CommandType) (b : Option Bool) : (s.prologue t b).indexState = s.indexState := rfl
@[simp] theorem State.prologue_xfer (s : State) (t : CommandType) (b : Option Bool) : (s.prologue t b).xfer = .idle := rfl
@[simp] theorem State.prologue_buf (s : State) (t : CommandType) (b : Option Bool) : (s.prologue t b).buf = s.buf := rfl
@[simp] theorem State.prologue_position (s : State) (t : CommandType) (b : Option Bool) : (s.prologue t b).position = 0 := rfl
@[simp] theorem State.prologue_used (s : State) (t : CommandType) (b : Option Bool) : (s.prologue t b).used = 0 := rfl
@[simp] theorem State.prologue_raCounter (s : State) (t : CommandType) (b : Option Bool) : (s.prologue t b).raCounter = s.raCounter := rfl
@[simp] theorem State.prologue_lastType (s : State) (t : CommandType) (b : Option Bool) : (s.prologue t b).lastType = t := rfl
@[simp] theorem State.prologue_files (s : State) (t : CommandType) (b : Option Bool) : (s.prologue t b).files = s.files := rfl
@[simp] theorem State.prologue_params (s : State) (t : CommandType) (b : Option Bool) : (s.prologue t b).params = s.params := rfl
@[simp] theorem State.prologue_log (s : State) (t : CommandType) (b : Option Bool) : (s.prologue t b).log = s.log := rfl
@[simp] theorem State.prologue_lastRead (s : State) (t : CommandType) (b : Option Bool) : (s.prologue t b).lastRead = s.lastRead := rfl
@[simp] theorem State.prologue_ioDraws (s : State) (t : CommandType) (b : Option Bool) : (s.prologue t b).ioDraws = s.ioDraws := rfl
@[simp] theorem State.prologue_ioCount (s : State) (t : CommandType) (b : Option Bool) : (s.prologue t b).ioCount = s.ioCount := rfl
@[simp] theorem State.prologue_pending (s : State) (t : CommandType) (b : Option Bool) : (s.prologue t b).pending = s.pending := rfl

/-! `State.raise`. -/

@[simp] theorem State.raise_trackReg (s : State) (f : CommandFault) : (s.raise f).trackReg = s.trackReg := rfl
@[simp] theorem State.raise_sectorReg (s : State) (f : CommandFault) : (s.raise f).sectorReg = s.sectorReg := rfl
@[simp] theorem State.raise_dataReg (s : State) (f : CommandFault) : (s.raise f).dataReg = s.dataReg := rfl
@[simp] theorem State.raise_side (s : State) (f : CommandFault) : (s.raise f).side = s.side := rfl
@[simp] theorem State.raise_activeDrive (s : State) (f : CommandFault) : (s.raise f).activeDrive = s.activeDrive := rfl
@[simp] theorem State.raise_stepDirection (s : State) (f : CommandFault) : (s.raise f).stepDirection = s.stepDirection := rfl
@[simp] theorem State.raise_flags (s : State) (f : CommandFault) : (s.raise f).flags = { f.record s.flags with dataRequest := false, busy := false, interruptRequest := true } := rfl
@[simp] theorem State.raise_drives (s : State) (f : CommandFault) : (s.raise f).drives = s.drives := rfl
@[simp] theorem State.raise_readyDelay (s : State) (f : CommandFault) : (s.raise f).readyDelay = s.readyDelay := rfl
@[simp] theorem State.raise_busyDelay (s : State) (f : CommandFault) : (s.raise f).busyDelay = s.busyDelay := rfl
@[simp] theorem State.raise_byteDelay (s : State) (f : CommandFault) : (s.raise f).byteDelay = s.byteDelay := rfl
@[simp] theorem State.raise_indexCountdown (s : State) (f : CommandFault) : (s.raise f).indexCountdown = s.indexCountdown := rfl
@[simp] theorem State.raise_indexState (s : State) (f : CommandFault) : (s.raise f).indexState = s.indexState := rfl
@[simp] theorem State.raise_xfer (s : State) (f : CommandFault) : (s.raise f).xfer = .idle := rfl
@[simp] theorem State.raise_buf (s : State) (f : CommandFault) : (s.raise f).buf = s.buf := rfl
@[simp] theorem State.raise_position (s : State) (f : CommandFault) : (s.raise f).position = 0 := rfl
@[simp] theorem State.raise_used (s : State) (f : CommandFault) : (s.raise f).used = 0 := rfl
@[simp] theorem State.raise_raCounter (s : State) (f : CommandFault) : (s.raise f).raCounter = s.raCounter := rfl
@[simp] theorem State.raise_lastType (s : State) (f : CommandFault) : (s.raise f).lastType = s.lastType := rfl
@[simp] theorem State.raise_files (s : State) (f : CommandFault) : (s.raise f).files = s.files := rfl
@[simp] theorem State.raise_params (s : State) (f : CommandFault) : (s.raise f).params = s.params := rfl
@[simp] theorem State.raise_log (s : State) (f : CommandFault) : (s.raise f).log = s.log := rfl
@[simp] theorem State.raise_lastRead (s : State) (f : CommandFault) : (s.raise f).lastRead = s.lastRead := rfl
@[simp] theorem State.raise_ioDraws (s : State) (f : CommandFault) : (s.raise f).ioDraws = s.ioDraws := rfl
@[simp] theorem State.raise_ioCount (s : State) (f : CommandFault) : (s.raise f).ioCount = s.ioCount := rfl
@[simp] theorem State.raise_pending (s : State) (f : CommandFault) : (s.raise f).pending = s.pending := rfl

/-! `State.commitDone`. -/

@[simp] theorem State.commitDone_trackReg (s : State) : (s.commitDone).trackReg = s.trackReg := rfl
@[simp] theorem State.commitDone_sectorReg (s : State) : (s.commitDone).sectorReg = s.sectorReg := rfl
@[simp] theorem State.commitDone_dataReg (s : State) : (s.commitDone).dataReg = s.dataReg := rfl
@[simp] theorem State.commitDone_side (s : State) : (s.commitDone).side = s.side := rfl
@[simp] theorem State.commitDone_activeDrive (s : State) : (s.commitDone).activeDrive = s.activeDrive := rfl
@[simp] theorem State.commitDone_stepDirection (s : State) : (s.commitDone).stepDirection = s.stepDirection := rfl
@[simp] theorem State.commitDone_flags (s : State) : (s.commitDone).flags = { s.flags with busy := false, interruptRequest := true } := rfl
@[simp] theorem State.commitDone_drives (s : State) : (s.commitDone).drives = s.drives := rfl
@[simp] theorem State.commitDone_readyDelay (s : State) : (s.commitDone).readyDelay = s.readyDelay := rfl
@[simp] theorem State.commitDone_busyDelay (s : State) : (s.commitDone).busyDelay = s.busyDelay := rfl
@[simp] theorem State.commitDone_byteDelay (s : State) : (s.commitDone).byteDelay = s.byteDelay := rfl
@[simp] theorem State.commitDone_indexCountdown (s : State) : (s.commitDone).indexCountdown = s.indexCountdown := rfl
@[simp] theorem State.commitDone_indexState (s : State) : (s.commitDone).indexState = s.indexState := rfl
@[simp] theorem State.commitDone_xfer (s : State) : (s.commitDone).xfer = .idle := rfl
@[simp] theorem State.commitDone_buf (s : State) : (s.commitDone).buf = s.buf := rfl
@[simp] theorem State.commitDone_position (s : State) : (s.commitDone).position = 0 := rfl
@[simp] theorem State.commitDone_used (s : State) : (s.commitDone).used = 0 := rfl
@[simp] theorem State.commitDone_raCounter (s : State) : (s.commitDone).raCounter = s.raCounter := rfl
@[simp] theorem State.commitDone_lastType (s : State) : (s.commitDone).lastType = s.lastType := rfl
@[simp] theorem State.commitDone_files (s : State) : (s.commitDone).files = s.files := rfl
@[simp] theorem State.commitDone_params (s : State) : (s.commitDone).params = s.params := rfl
@[simp] theorem State.commitDone_log (s : State) : (s.commitDone).log = s.log := rfl
@[simp] theorem State.commitDone_lastRead (s : State) : (s.commitDone).lastRead = s.lastRead := rfl
@[simp] theorem State.commitDone_ioDraws (s : State) : (s.commitDone).ioDraws = s.ioDraws := rfl
@[simp] theorem State.commitDone_ioCount (s : State) : (s.commitDone).ioCount = s.ioCount := rfl
@[simp] theorem State.commitDone_pending (s : State) : (s.commitDone).pending = s.pending := rfl

/-! `State.finishTypeI`. -/

@[simp] theorem State.finishTypeI_trackReg (s : State) : (s.finishTypeI).trackReg = s.trackReg := by unfold State.finishTypeI; split <;> rfl
@[simp] theorem State.finishTypeI_sectorReg (s : State) : (s.finishTypeI).sectorReg = s.sectorReg := by unfold State.finishTypeI; split <;> rfl
@[simp] theorem State.finishTypeI_dataReg (s : State) : (s.finishTypeI).dataReg = s.dataReg := by unfold State.finishTypeI; split <;> rfl
@[simp] theorem State.finishTypeI_side (s : State) : (s.finishTypeI).side = s.side := by unfold State.finishTypeI; split <;> rfl
@[simp] theorem State.finishTypeI_activeDrive (s : State) : (s.finishTypeI).activeDrive = s.activeDrive := by unfold State.finishTypeI; split <;> rfl
@[simp] theorem State.finishTypeI_stepDirection (s : State) : (s.finishTypeI).stepDirection = s.stepDirection := by unfold State.finishTypeI; split <;> rfl
@[simp] theorem State.finishTypeI_drives (s : State) : (s.finishTypeI).drives = s.drives := by unfold State.finishTypeI; split <;> rfl
@[simp] theorem State.finishTypeI_readyDelay (s : State) : (s.finishTypeI).readyDelay = s.readyDelay := by unfold State.finishTypeI; split <;> rfl
@[simp] theorem State.finishTypeI_byteDelay (s : State) : (s.finishTypeI).byteDelay = s.byteDelay := by unfold State.finishTypeI; split <;> rfl
@[simp] theorem State.finishTypeI_indexCountdown (s : State) : (s.finishTypeI).indexCountdown = s.indexCountdown := by unfold State.finishTypeI; split <;> rfl
@[simp] theorem State.finishTypeI_indexState (s : State) : (s.finishTypeI).indexState = s.indexState := by unfold State.finishTypeI; split <;> rfl
@[simp] theorem State.finishTypeI_xfer (s : State) : (s.finishTypeI).xfer = s.xfer := by unfold State.finishTypeI; split <;> rfl
@[simp] theorem State.finishTypeI_buf (s : State) : (s.finishTypeI).buf = s.buf := by unfold State.finishTypeI; split <;> rfl
@[simp] theorem State.finishTypeI_position (s : State) : (s.finishTypeI).position = s.position := by unfold State.finishTypeI; split <;> rfl
@[simp] theorem State.finishTypeI_used (s : State) : (s.finishTypeI).used = s.used := by unfold State.finishTypeI; split <;> rfl
@[simp] theorem State.finishTypeI_raCounter (s : State) : (s.finishTypeI).raCounter = s.raCounter := by unfold State.finishTypeI; split <;> rfl
@[simp] theorem State.finishTypeI_lastType (s : State) : (s.finishTypeI).lastType = s.lastType := by unfold State.finishTypeI; split <;> rfl
@[simp] theorem State.finishTypeI_files (s : State) : (s.finishTypeI).files = s.files := by unfold State.finishTypeI; split <;> rfl
@[simp] theorem State.finishTypeI_params (s : State) : (s.finishTypeI).params = s.params := by unfold State.finishTypeI; split <;> rfl
@[simp] theorem State.finishTypeI_log (s : State) : (s.finishTypeI).log = s.log := by unfold State.finishTypeI; split <;> rfl
@[simp] theorem State.finishTypeI_lastRead (s : State) : (s.finishTypeI).lastRead = s.lastRead := by unfold State.finishTypeI; split <;> rfl
@[simp] theorem State.finishTypeI_ioDraws (s : State) : (s.finishTypeI).ioDraws = s.ioDraws := by unfold State.finishTypeI; split <;> rfl
@[simp] theorem State.finishTypeI_ioCount (s : State) : (s.finishTypeI).ioCount = s.ioCount := by unfold State.finishTypeI; split <;> rfl
@[simp] theorem State.finishTypeI_pending (s : State) : (s.finishTypeI).pending = s.pending := by unfold State.finishTypeI; split <;> rfl

/-! `State.headLoad`. -/

@[simp] theorem State.headLoad_trackReg (s : State) (h : Bool) : (s.headLoad h).trackReg = s.trackReg := by unfold State.headLoad; split <;> rfl
@[simp] theorem State.headLoad_sectorReg (s : State) (h : Bool) : (s.headLoad h).sectorReg = s.sectorReg := by unfold State.headLoad; split <;> rfl
@[simp] theorem State.headLoad_dataReg (s : State) (h : Bool) : (s.headLoad h).dataReg = s.dataReg := by unfold State.headLoad; split <;> rfl
@[simp] theorem State.headLoad_side (s : State) (h : Bool) : (s.headLoad h).side = s.side := by unfold State.headLoad; split <;> rfl
@[simp] theorem State.headLoad_activeDrive (s : State) (h : Bool) : (s.headLoad h).activeDrive = s.activeDrive := by unfold State.headLoad; split <;> rfl
@[simp] theorem State.headLoad_stepDirection (s : State) (h : Bool) : (s.headLoad h).stepDirection = s.stepDirection := by unfold State.headLoad; split <;> rfl
@[simp] theorem State.headLoad_drives (s : State) (h : Bool) : (s.headLoad h).drives = s.drives := by unfold State.headLoad; split <;> rfl
@[simp] theorem State.headLoad_readyDelay (s : State) (h : Bool) : (s.headLoad h).readyDelay = s.readyDelay := by unfold State.headLoad; split <;> rfl
@[simp] theorem State.headLoad_busyDelay (s : State) (h : Bool) : (s.headLoad h).busyDelay = s.busyDelay := by unfold State.headLoad; split <;> rfl
@[simp] theorem State.headLoad_byteDelay (s : State) (h : Bool) : (s.headLoad h).byteDelay = s.byteDelay := by unfold State.headLoad; split <;> rfl
@[simp] theorem State.headLoad_indexCountdown (s : State) (h : Bool) : (s.headLoad h).indexCountdown = s.indexCountdown := by unfold State.headLoad; split <;> rfl
@[simp] theorem State.headLoad_indexState (s : State) (h : Bool) : (s.headLoad h).indexState = s.indexState := by unfold State.headLoad; split <;> rfl
@[simp] theorem State.headLoad_xfer (s : State) (h : Bool) : (s.headLoad h).xfer = s.xfer := by unfold State.headLoad; split <;> rfl
@[simp] theorem State.headLoad_buf (s : State) (h : Bool) : (s.headLoad h).buf = s.buf := by unfold State.headLoad; split <;> rfl
@[simp] theorem State.headLoad_position (s : State) (h : Bool) : (s.headLoad h).position = s.position := by unfold State.headLoad; split <;> rfl
@[simp] theorem State.headLoad_used (s : State) (h : Bool) : (s.headLoad h).used = s.used := by unfold State.headLoad; split <;> rfl
@[simp] theorem State.headLoad_raCounter (s : State) (h : Bool) : (s.headLoad h).raCounter = s.raCounter := by unfold State.headLoad; split <;> rfl
@[simp] theorem State.headLoad_lastType (s : State) (h : Bool) : (s.headLoad h).lastType = s.lastType := by unfold State.headLoad; split <;> rfl
@[simp] theorem State.headLoad_files (s : State) (h : Bool) : (s.headLoad h).files = s.files := by unfold State.headLoad; split <;> rfl
@[simp] theorem State.headLoad_params (s : State) (h : Bool) : (s.headLoad h).params = s.params := by unfold State.headLoad; split <;> rfl
@[simp] theorem State.headLoad_log (s : State) (h : Bool) : (s.headLoad h).log = s.log := by unfold State.headLoad; split <;> rfl
@[simp] theorem State.headLoad_lastRead (s : State) (h : Bool) : (s.headLoad h).lastRead = s.lastRead := by unfold State.headLoad; split <;> rfl
@[simp] theorem State.headLoad_ioDraws (s : State) (h : Bool) : (s.headLoad h).ioDraws = s.ioDraws := by unfold State.headLoad; split <;> rfl
@[simp] theorem State.headLoad_ioCount (s : State) (h : Bool) : (s.headLoad h).ioCount = s.ioCount := by unfold State.headLoad; split <;> rfl
@[simp] theorem State.headLoad_pending (s : State) (h : Bool) : (s.headLoad h).pending = s.pending := by unfold State.headLoad; split <;> rfl

/-! `State.setCurrentTrack`. -/

@[simp] theorem State.setCurrentTrack_trackReg (s : State) (a : Fin 4) (t : Nat) : (s.setCurrentTrack a t).trackReg = s.trackReg := rfl
@[simp] theorem State.setCurrentTrack_sectorReg (s : State) (a : Fin 4) (t : Nat) : (s.setCurrentTrack a t).sectorReg = s.sectorReg := rfl
@[simp] theorem State.setCurrentTrack_dataReg (s : State) (a : Fin 4) (t : Nat) : (s.setCurrentTrack a t).dataReg = s.dataReg := rfl
@[simp] theorem State.setCurrentTrack_side (s : State) (a : Fin 4) (t : Nat) : (s.setCurrentTrack a t).side = s.side := rfl
@[simp] theorem State.setCurrentTrack_activeDrive (s : State) (a : Fin 4) (t : Nat) : (s.setCurrentTrack a t).activeDrive = s.activeDrive := rfl
@[simp] theorem State.setCurrentTrack_stepDirection (s : State) (a : Fin 4) (t : Nat) : (s.setCurrentTrack a t).stepDirection = s.stepDirection := rfl
@[simp] theorem State.setCurrentTrack_flags (s : State) (a : Fin 4) (t : Nat) : (s.setCurrentTrack a t).flags = s.flags := rfl
@[simp] theorem State.setCurrentTrack_drives (s : State) (a : Fin 4) (t : Nat) : (s.setCurrentTrack a t).drives = s.drives.set a { s.drive a with currentTrack := t } := rfl
@[simp] theorem State.setCurrentTrack_readyDelay (s : State) (a : Fin 4) (t : Nat) : (s.setCurrentTrack a t).readyDelay = s.readyDelay := rfl
@[simp] theorem State.setCurrentTrack_busyDelay (s : State) (a : Fin 4) (t : Nat) : (s.setCurrentTrack a t).busyDelay = s.busyDelay := rfl
@[simp] theorem State.setCurrentTrack_byteDelay (s : State) (a : Fin 4) (t : Nat) : (s.setCurrentTrack a t).byteDelay = s.byteDelay := rfl
@[simp] theorem State.setCurrentTrack_indexCountdown (s : State) (a : Fin 4) (t : Nat) : (s.setCurrentTrack a t).indexCountdown = s.indexCountdown := rfl
@[simp] theorem State.setCurrentTrack_indexState (s : State) (a : Fin 4) (t : Nat) : (s.setCurrentTrack a t).indexState = s.indexState := rfl
@[simp] theorem State.setCurrentTrack_xfer (s : State) (a : Fin 4) (t : Nat) : (s.setCurrentTrack a t).xfer = s.xfer := rfl
@[simp] theorem State.setCurrentTrack_buf (s : State) (a : Fin 4) (t : Nat) : (s.setCurrentTrack a t).buf = s.buf := rfl
@[simp] theorem State.setCurrentTrack_position (s : State) (a : Fin 4) (t : Nat) : (s.setCurrentTrack a t).position = s.position := rfl
@[simp] theorem State.setCurrentTrack_used (s : State) (a : Fin 4) (t : Nat) : (s.setCurrentTrack a t).used = s.used := rfl
@[simp] theorem State.setCurrentTrack_raCounter (s : State) (a : Fin 4) (t : Nat) : (s.setCurrentTrack a t).raCounter = s.raCounter := rfl
@[simp] theorem State.setCurrentTrack_lastType (s : State) (a : Fin 4) (t : Nat) : (s.setCurrentTrack a t).lastType = s.lastType := rfl
@[simp] theorem State.setCurrentTrack_files (s : State) (a : Fin 4) (t : Nat) : (s.setCurrentTrack a t).files = s.files := rfl
@[simp] theorem State.setCurrentTrack_params (s : State) (a : Fin 4) (t : Nat) : (s.setCurrentTrack a t).params = s.params := rfl
@[simp] theorem State.setCurrentTrack_log (s : State) (a : Fin 4) (t : Nat) : (s.setCurrentTrack a t).log = s.log := rfl
@[simp] theorem State.setCurrentTrack_lastRead (s : State) (a : Fin 4) (t : Nat) : (s.setCurrentTrack a t).lastRead = s.lastRead := rfl
@[simp] theorem State.setCurrentTrack_ioDraws (s : State) (a : Fin 4) (t : Nat) : (s.setCurrentTrack a t).ioDraws = s.ioDraws := rfl
@[simp] theorem State.setCurrentTrack_ioCount (s : State) (a : Fin 4) (t : Nat) : (s.setCurrentTrack a t).ioCount = s.ioCount := rfl
@[simp] theorem State.setCurrentTrack_pending (s : State) (a : Fin 4) (t : Nat) : (s.setCurrentTrack a t).pending = s.pending := rfl

/-! `State.stepMove`. -/

@[simp] theorem State.stepMove_sectorReg (s : State) (u : Bool) : (s.stepMove u).sectorReg = s.sectorReg := by unfold State.stepMove; split <;> rfl
@[simp] theorem State.stepMove_dataReg (s : State) (u : Bool) : (s.stepMove u).dataReg = s.dataReg := by unfold State.stepMove; split <;> rfl
@[simp] theorem State.stepMove_side (s : State) (u : Bool) : (s.stepMove u).side = s.side := by unfold State.stepMove; split <;> rfl
@[simp] theorem State.stepMove_activeDrive (s : State) (u : Bool) : (s.stepMove u).activeDrive = s.activeDrive := by unfold State.stepMove; split <;> rfl
@[simp] theorem State.stepMove_stepDirection (s : State) (u : Bool) : (s.stepMove u).stepDirection = s.stepDirection := by unfold State.stepMove; split <;> rfl
@[simp] theorem State.stepMove_flags (s : State) (u : Bool) : (s.stepMove u).flags = s.flags := by unfold State.stepMove; split <;> rfl
@[simp] theorem State.stepMove_readyDelay (s : State) (u : Bool) : (s.stepMove u).readyDelay = s.readyDelay := by unfold State.stepMove; split <;> rfl
@[simp] theorem State.stepMove_busyDelay (s : State) (u : Bool) : (s.stepMove u).busyDelay = s.busyDelay := by unfold State.stepMove; split <;> rfl
@[simp] theorem State.stepMove_byteDelay (s : State) (u : Bool) : (s.stepMove u).byteDelay = s.byteDelay := by unfold State.stepMove; split <;> rfl
@[simp] theorem State.stepMove_indexCountdown (s : State) (u : Bool) : (s.stepMove u).indexCountdown = s.indexCountdown := by unfold State.stepMove; split <;> rfl
@[simp] theorem State.stepMove_indexState (s : State) (u : Bool) : (s.stepMove u).indexState = s.indexState := by unfold State.stepMove; split <;> rfl
@[simp] theorem State.stepMove_xfer (s : State) (u : Bool) : (s.stepMove u).xfer = s.xfer := by unfold State.stepMove; split <;> rfl
@[simp] theorem State.stepMove_buf (s : State) (u : Bool) : (s.stepMove u).buf = s.buf := by unfold State.stepMove; split <;> rfl
@[simp] theorem State.stepMove_position (s : State) (u : Bool) : (s.stepMove u).position = s.position := by unfold State.stepMove; split <;> rfl
@[simp] theorem State.stepMove_used (s : State) (u : Bool) : (s.stepMove u).used = s.used := by unfold State.stepMove; split <;> rfl
@[simp] theorem State.stepMove_raCounter (s : State) (u : Bool) : (s.stepMove u).raCounter = s.raCounter := by unfold State.stepMove; split <;> rfl
@[simp] theorem State.stepMove_lastType (s : State) (u : Bool) : (s.stepMove u).lastType = s.lastType := by unfold State.stepMove; split <;> rfl
@[simp] theorem State.stepMove_files (s : State) (u : Bool) : (s.stepMove u).files = s.files := by unfold State.stepMove; split <;> rfl
@[simp] theorem State.stepMove_params (s : State) (u : Bool) : (s.stepMove u).params = s.params := by unfold State.stepMove; split <;> rfl
@[simp] theorem State.stepMove_log (s : State) (u : Bool) : (s.stepMove u).log = s.log := by unfold State.stepMove; split <;> rfl
@[simp] theorem State.stepMove_lastRead (s : State) (u : Bool) : (s.stepMove u).lastRead = s.lastRead := by unfold State.stepMove; split <;> rfl
@[simp] theorem State.stepMove_ioDraws (s : State) (u : Bool) : (s.stepMove u).ioDraws = s.ioDraws := by unfold State.stepMove; split <;> rfl
@[simp] theorem State.stepMove_ioCount (s : State) (u : Bool) : (s.stepMove u).ioCount = s.ioCount := by unfold State.stepMove; split <;> rfl
@[simp] theorem State.stepMove_pending (s : State) (u : Bool) : (s.stepMove u).pending = s.pending := by unfold State.stepMove; split <;> rfl

/-! `State.facing`. -/

@[simp] theorem State.facing_trackReg (s : State) (d : StepDirection) : (s.facing d).trackReg = s.trackReg := rfl
@[simp] theorem State.facing_sectorReg (s : State) (d : StepDirection) : (s.facing d).sectorReg = s.sectorReg := rfl
@[simp] theorem State.facing_dataReg (s : State) (d : StepDirection) : (s.facing d).dataReg = s.dataReg := rfl
@[simp] theorem State.facing_side (s : State) (d : StepDirection) : (s.facing d).side = s.side := rfl
@[simp] theorem State.facing_activeDrive (s : State) (d : StepDirection) : (s.facing d).activeDrive = s.activeDrive := rfl
@[simp] theorem State.facing_stepDirection (s : State) (d : StepDirection) : (s.facing d).stepDirection = d := rfl
@[simp] theorem State.facing_flags (s : State) (d : StepDirection) : (s.facing d).flags = s.flags := rfl
@[simp] theorem State.facing_drives (s : State) (d : StepDirection) : (s.facing d).drives = s.drives := rfl
@[simp] theorem State.facing_readyDelay (s : State) (d : StepDirection) : (s.facing d).readyDelay = s.readyDelay := rfl
@[simp] theorem State.facing_busyDelay (s : State) (d : StepDirection) : (s.facing d).busyDelay = s.busyDelay := rfl
@[simp] theorem State.facing_byteDelay (s : State) (d : StepDirection) : (s.facing d).byteDelay = s.byteDelay := rfl
@[simp] theorem State.facing_indexCountdown (s : State) (d : StepDirection) : (s.facing d).indexCountdown = s.indexCountdown := rfl
@[simp] theorem State.facing_indexState (s : State) (d : StepDirection) : (s.facing d).indexState = s.indexState := rfl
@[simp] theorem State.facing_xfer (s : State) (d : StepDirection) : (s.facing d).xfer = s.xfer := rfl
@[simp] theorem State.facing_buf (s : State) (d : StepDirection) : (s.facing d).buf = s.buf := rfl
@[simp] theorem State.facing_position (s : State) (d : StepDirection) : (s.facing d).position = s.position := rfl
@[simp] theorem State.facing_used (s : State) (d : StepDirection) : (s.facing d).used = s.used := rfl
@[simp] theorem State.facing_raCounter (s : State) (d : StepDirection) : (s.facing d).raCounter = s.raCounter := rfl
@[simp] theorem State.facing_lastType (s : State) (d : StepDirection) : (s.facing d).lastType = s.lastType := rfl
@[simp] theorem State.facing_files (s : State) (d : StepDirection) : (s.facing d).files = s.files := rfl
@[simp] theorem State.facing_params (s : State) (d : StepDirection) : (s.facing d).params = s.params := rfl
@[simp] theorem State.facing_log (s : State) (d : StepDirection) : (s.facing d).log = s.log := rfl
@[simp] theorem State.facing_lastRead (s : State) (d : StepDirection) : (s.facing d).lastRead = s.lastRead := rfl
@[simp] theorem State.facing_ioDraws (s : State) (d : StepDirection) : (s.facing d).ioDraws = s.ioDraws := rfl
@[simp] theorem State.facing_ioCount (s : State) (d : StepDirection) : (s.facing d).ioCount = s.ioCount := rfl
@[simp] theorem State.facing_pending (s : State) (d : StepDirection) : (s.facing d).pending = s.pending := rfl

/-! `State.armRead`. -/

@[simp] theorem State.armRead_trackReg (s : State) : (s.armRead).trackReg = s.trackReg := rfl
@[simp] theorem State.armRead_sectorReg (s : State) : (s.armRead).sectorReg = s.sectorReg := rfl
@[simp] theorem State.armRead_dataReg (s : State) : (s.armRead).dataReg = s.buf.getD 0 0 := rfl
@[simp] theorem State.armRead_side (s : State) : (s.armRead).side = s.side := rfl
@[simp] theorem State.armRead_activeDrive (s : State) : (s.armRead).activeDrive = s.activeDrive := rfl
@[simp] theorem State.armRead_stepDirection (s : State) : (s.armRead).stepDirection = s.stepDirection := rfl
@[simp] theorem State.armRead_flags (s : State) : (s.armRead).flags = { s.flags with dataRequest := false } := rfl
@[simp] theorem State.armRead_drives (s : State) : (s.armRead).drives = s.drives := rfl
@[simp] theorem State.armRead_readyDelay (s : State) : (s.armRead).readyDelay = s.readyDelay := rfl
@[simp] theorem State.armRead_busyDelay (s : State) : (s.armRead).busyDelay = s.busyDelay := rfl
@[simp] theorem State.armRead_byteDelay (s : State) : (s.armRead).byteDelay = s.params.byteDelay.polls := rfl
@[simp] theorem State.armRead_indexCountdown (s : State) : (s.armRead).indexCountdown = s.indexCountdown := rfl
@[simp] theorem State.armRead_indexState (s : State) : (s.armRead).indexState = s.indexState := rfl
@[simp] theorem State.armRead_xfer (s : State) : (s.armRead).xfer = .readOut := rfl
@[simp] theorem State.armRead_buf (s : State) : (s.armRead).buf = s.buf := rfl
@[simp] theorem State.armRead_position (s : State) : (s.armRead).position = 1 := rfl
@[simp] theorem State.armRead_used (s : State) : (s.armRead).used = s.used := rfl
@[simp] theorem State.armRead_raCounter (s : State) : (s.armRead).raCounter = s.raCounter := rfl
@[simp] theorem State.armRead_lastType (s : State) : (s.armRead).lastType = s.lastType := rfl
@[simp] theorem State.armRead_files (s : State) : (s.armRead).files = s.files := rfl
@[simp] theorem State.armRead_params (s : State) : (s.armRead).params = s.params := rfl
@[simp] theorem State.armRead_log (s : State) : (s.armRead).log = s.log := rfl
@[simp] theorem State.armRead_lastRead (s : State) : (s.armRead).lastRead = s.lastRead := rfl
@[simp] theorem State.armRead_ioDraws (s : State) : (s.armRead).ioDraws = s.ioDraws := rfl
@[simp] theorem State.armRead_ioCount (s : State) : (s.armRead).ioCount = s.ioCount := rfl
@[simp] theorem State.armRead_pending (s : State) : (s.armRead).pending = s.pending := rfl

/-! `State.armWrite`. -/

@[simp] theorem State.armWrite_trackReg (s : State) (m : Xfer) : (s.armWrite m).trackReg = s.trackReg := rfl
@[simp] theorem State.armWrite_sectorReg (s : State) (m : Xfer) : (s.armWrite m).sectorReg = s.sectorReg := rfl
@[simp] theorem State.armWrite_dataReg (s : State) (m : Xfer) : (s.armWrite m).dataReg = s.dataReg := rfl
@[simp] theorem State.armWrite_side (s : State) (m : Xfer) : (s.armWrite m).side = s.side := rfl
@[simp] theorem State.armWrite_activeDrive (s : State) (m : Xfer) : (s.armWrite m).activeDrive = s.activeDrive := rfl
@[simp] theorem State.armWrite_stepDirection (s : State) (m : Xfer) : (s.armWrite m).stepDirection = s.stepDirection := rfl
@[simp] theorem State.armWrite_flags (s : State) (m : Xfer) : (s.armWrite m).flags = { s.flags with dataRequest := false } := rfl
@[simp] theorem State.armWrite_drives (s : State) (m : Xfer) : (s.armWrite m).drives = s.drives := rfl
@[simp] theorem State.armWrite_readyDelay (s : State) (m : Xfer) : (s.armWrite m).readyDelay = s.readyDelay := rfl
@[simp] theorem State.armWrite_busyDelay (s : State) (m : Xfer) : (s.armWrite m).busyDelay = s.busyDelay := rfl
@[simp] theorem State.armWrite_byteDelay (s : State) (m : Xfer) : (s.armWrite m).byteDelay = s.params.byteDelay.polls := rfl
@[simp] theorem State.armWrite_indexCountdown (s : State) (m : Xfer) : (s.armWrite m).indexCountdown = s.indexCountdown := rfl
@[simp] theorem State.armWrite_indexState (s : State) (m : Xfer) : (s.armWrite m).indexState = s.indexState := rfl
@[simp] theorem State.armWrite_xfer (s : State) (m : Xfer) : (s.armWrite m).xfer = m := rfl
@[simp] theorem State.armWrite_buf (s : State) (m : Xfer) : (s.armWrite m).buf = s.buf := rfl
@[simp] theorem State.armWrite_position (s : State) (m : Xfer) : (s.armWrite m).position = 0 := rfl
@[simp] theorem State.armWrite_used (s : State) (m : Xfer) : (s.armWrite m).used = s.used := rfl
@[simp] theorem State.armWrite_raCounter (s : State) (m : Xfer) : (s.armWrite m).raCounter = s.raCounter := rfl
@[simp] theorem State.armWrite_lastType (s : State) (m : Xfer) : (s.armWrite m).lastType = s.lastType := rfl
@[simp] theorem State.armWrite_files (s : State) (m : Xfer) : (s.armWrite m).files = s.files := rfl
@[simp] theorem State.armWrite_params (s : State) (m : Xfer) : (s.armWrite m).params = s.params := rfl
@[simp] theorem State.armWrite_log (s : State) (m : Xfer) : (s.armWrite m).log = s.log := rfl
@[simp] theorem State.armWrite_lastRead (s : State) (m : Xfer) : (s.armWrite m).lastRead = s.lastRead := rfl
@[simp] theorem State.armWrite_ioDraws (s : State) (m : Xfer) : (s.armWrite m).ioDraws = s.ioDraws := rfl
@[simp] theorem State.armWrite_ioCount (s : State) (m : Xfer) : (s.armWrite m).ioCount = s.ioCount := rfl
@[simp] theorem State.armWrite_pending (s : State) (m : Xfer) : (s.armWrite m).pending = s.pending := rfl

/-! `State.fillBuffer`. -/

@[simp] theorem State.fillBuffer_trackReg (s : State) (bs : List Byte) : (s.fillBuffer bs).trackReg = s.trackReg := rfl
@[simp] theorem State.fillBuffer_sectorReg (s : State) (bs : List Byte) : (s.fillBuffer bs).sectorReg = s.sectorReg := rfl
@[simp] theorem State.fillBuffer_dataReg (s : State) (bs : List Byte) : (s.fillBuffer bs).dataReg = s.dataReg := rfl
@[simp] theorem State.fillBuffer_side (s : State) (bs : List Byte) : (s.fillBuffer bs).side = s.side := rfl
@[simp] theorem State.fillBuffer_activeDrive (s : State) (bs : List Byte) : (s.fillBuffer bs).activeDrive = s.activeDrive := rfl
@[simp] theorem State.fillBuffer_stepDirection (s : State) (bs : List Byte) : (s.fillBuffer bs).stepDirection = s.stepDirection := rfl
@[simp] theorem State.fillBuffer_flags (s : State) (bs : List Byte) : (s.fillBuffer bs).flags = s.flags := rfl
@[simp] theorem State.fillBuffer_drives (s : State) (bs : List Byte) : (s.fillBuffer bs).drives = s.drives := rfl
@[simp] theorem State.fillBuffer_readyDelay (s : State) (bs : List Byte) : (s.fillBuffer bs).readyDelay = s.readyDelay := rfl
@[simp] theorem State.fillBuffer_busyDelay (s : State) (bs : List Byte) : (s.fillBuffer bs).busyDelay = s.busyDelay := rfl
@[simp] theorem State.fillBuffer_byteDelay (s : State) (bs : List Byte) : (s.fillBuffer bs).byteDelay = s.byteDelay := rfl
@[simp] theorem State.fillBuffer_indexCountdown (s : State) (bs : List Byte) : (s.fillBuffer bs).indexCountdown = s.indexCountdown := rfl
@[simp] theorem State.fillBuffer_indexState (s : State) (bs : List Byte) : (s.fillBuffer bs).indexState = s.indexState := rfl
@[simp] theorem State.fillBuffer_xfer (s : State) (bs : List Byte) : (s.fillBuffer bs).xfer = s.xfer := rfl
@[simp] theorem State.fillBuffer_buf (s : State) (bs : List Byte) : (s.fillBuffer bs).buf = bs ++ s.buf.drop bs.length := rfl
@[simp] theorem State.fillBuffer_position (s : State) (bs : List Byte) : (s.fillBuffer bs).position = s.position := rfl
@[simp] theorem State.fillBuffer_used (s : State) (bs : List Byte) : (s.fillBuffer bs).used = bs.length := rfl
@[simp] theorem State.fillBuffer_raCounter (s : State) (bs : List Byte) : (s.fillBuffer bs).raCounter = s.raCounter := rfl
@[simp] theorem State.fillBuffer_lastType (s : State) (bs : List Byte) : (s.fillBuffer bs).lastType = s.lastType := rfl
@[simp] theorem State.fillBuffer_files (s : State) (bs : List Byte) : (s.fillBuffer bs).files = s.files := rfl
@[simp] theorem State.fillBuffer_params (s : State) (bs : List Byte) : (s.fillBuffer bs).params = s.params := rfl
@[simp] theorem State.fillBuffer_log (s : State) (bs : List Byte) : (s.fillBuffer bs).log = s.log := rfl
@[simp] theorem State.fillBuffer_lastRead (s : State) (bs : List Byte) : (s.fillBuffer bs).lastRead = s.lastRead := rfl
@[simp] theorem State.fillBuffer_ioDraws (s : State) (bs : List Byte) : (s.fillBuffer bs).ioDraws = s.ioDraws := rfl
@[simp] theorem State.fillBuffer_ioCount (s : State) (bs : List Byte) : (s.fillBuffer bs).ioCount = s.ioCount := rfl
@[simp] theorem State.fillBuffer_pending (s : State) (bs : List Byte) : (s.fillBuffer bs).pending = s.pending := rfl

/-! `State.notBusy`. -/

@[simp] theorem State.notBusy_trackReg (s : State) : (s.notBusy).trackReg = s.trackReg := rfl
@[simp] theorem State.notBusy_sectorReg (s : State) : (s.notBusy).sectorReg = s.sectorReg := rfl
@[simp] theorem State.notBusy_dataReg (s : State) : (s.notBusy).dataReg = s.dataReg := rfl
@[simp] theorem State.notBusy_side (s : State) : (s.notBusy).side = s.side := rfl
@[simp] theorem State.notBusy_activeDrive (s : State) : (s.notBusy).activeDrive = s.activeDrive := rfl
@[simp] theorem State.notBusy_stepDirection (s : State) : (s.notBusy).stepDirection = s.stepDirection := rfl
@[simp] theorem State.notBusy_flags (s : State) : (s.notBusy).flags = { s.flags with busy := false } := rfl
@[simp] theorem State.notBusy_drives (s : State) : (s.notBusy).drives = s.drives := rfl
@[simp] theorem State.notBusy_readyDelay (s : State) : (s.notBusy).readyDelay = s.readyDelay := rfl
@[simp] theorem State.notBusy_busyDelay (s : State) : (s.notBusy).busyDelay = s.busyDelay := rfl
@[simp] theorem State.notBusy_byteDelay (s : State) : (s.notBusy).byteDelay = s.byteDelay := rfl
@[simp] theorem State.notBusy_indexCountdown (s : State) : (s.notBusy).indexCountdown = s.indexCountdown := rfl
@[simp] theorem State.notBusy_indexState (s : State) : (s.notBusy).indexState = s.indexState := rfl
@[simp] theorem State.notBusy_xfer (s : State) : (s.notBusy).xfer = s.xfer := rfl
@[simp] theorem State.notBusy_buf (s : State) : (s.notBusy).buf = s.buf := rfl
@[simp] theorem State.notBusy_position (s : State) : (s.notBusy).position = s.position := rfl
@[simp] theorem State.notBusy_used (s : State) : (s.notBusy).used = s.used := rfl
@[simp] theorem State.notBusy_raCounter (s : State) : (s.notBusy).raCounter = s.raCounter := rfl
@[simp] theorem State.notBusy_lastType (s : State) : (s.notBusy).lastType = s.lastType := rfl
@[simp] theorem State.notBusy_files (s : State) : (s.notBusy).files = s.files := rfl
@[simp] theorem State.notBusy_params (s : State) : (s.notBusy).params = s.params := rfl
@[simp] theorem State.notBusy_log (s : State) : (s.notBusy).log = s.log := rfl
@[simp] theorem State.notBusy_lastRead (s : State) : (s.notBusy).lastRead = s.lastRead := rfl
@[simp] theorem State.notBusy_ioDraws (s : State) : (s.notBusy).ioDraws = s.ioDraws := rfl
@[simp] theorem State.notBusy_ioCount (s : State) : (s.notBusy).ioCount = s.ioCount := rfl
@[simp] theorem State.notBusy_pending (s : State) : (s.notBusy).pending = s.pending := rfl

/-! `State.tickByte`. -/

@[simp] theorem State.tickByte_trackReg (s : State) : (s.tickByte).trackReg = s.trackReg := by unfold State.tickByte; (repeat' split) <;> rfl
@[simp] theorem State.tickByte_sectorReg (s : State) : (s.tickByte).sectorReg = s.sectorReg := by unfold State.tickByte; (repeat' split) <;> rfl
@[simp] theorem State.tickByte_dataReg (s : State) : (s.tickByte).dataReg = s.dataReg := by unfold State.tickByte; (repeat' split) <;> rfl
@[simp] theorem State.tickByte_side (s : State) : (s.tickByte).side = s.side := by unfold State.tickByte; (repeat' split) <;> rfl
@[simp] theorem State.tickByte_activeDrive (s : State) : (s.tickByte).activeDrive = s.activeDrive := by unfold State.tickByte; (repeat' split) <;> rfl
@[simp] theorem State.tickByte_stepDirection (s : State) : (s.tickByte).stepDirection = s.stepDirection := by unfold State.tickByte; (repeat' split) <;> rfl
@[simp] theorem State.tickByte_drives (s : State) : (s.tickByte).drives = s.drives := by unfold State.tickByte; (repeat' split) <;> rfl
@[simp] theorem State.tickByte_readyDelay (s : State) : (s.tickByte).readyDelay = s.readyDelay := by unfold State.tickByte; (repeat' split) <;> rfl
@[simp] theorem State.tickByte_busyDelay (s : State) : (s.tickByte).busyDelay = s.busyDelay := by unfold State.tickByte; (repeat' split) <;> rfl
@[simp] theorem State.tickByte_indexCountdown (s : State) : (s.tickByte).indexCountdown = s.indexCountdown := by unfold State.tickByte; (repeat' split) <;> rfl
@[simp] theorem State.tickByte_indexState (s : State) : (s.tickByte).indexState = s.indexState := by unfold State.tickByte; (repeat' split) <;> rfl
@[simp] theorem State.tickByte_xfer (s : State) : (s.tickByte).xfer = s.xfer := by unfold State.tickByte; (repeat' split) <;> rfl
@[simp] theorem State.tickByte_buf (s : State) : (s.tickByte).buf = s.buf := by unfold State.tickByte; (repeat' split) <;> rfl
@[simp] theorem State.tickByte_position (s : State) : (s.tickByte).position = s.position := by unfold State.tickByte; (repeat' split) <;> rfl
@[simp] theorem State.tickByte_used (s : State) : (s.tickByte).used = s.used := by unfold State.tickByte; (repeat' split) <;> rfl
@[simp] theorem State.tickByte_raCounter (s : State) : (s.tickByte).raCounter = s.raCounter := by unfold State.tickByte; (repeat' split) <;> rfl
@[simp] theorem State.tickByte_lastType (s : State) : (s.tickByte).lastType = s.lastType := by unfold State.tickByte; (repeat' split) <;> rfl
@[simp] theorem State.tickByte_files (s : State) : (s.tickByte).files = s.files := by unfold State.tickByte; (repeat' split) <;> rfl
@[simp] theorem State.tickByte_params (s : State) : (s.tickByte).params = s.params := by unfold State.tickByte; (repeat' split) <;> rfl
@[simp] theorem State.tickByte_log (s : State) : (s.tickByte).log = s.log := by unfold State.tickByte; (repeat' split) <;> rfl
@[simp] theorem State.tickByte_lastRead (s : State) : (s.tickByte).lastRead = s.lastRead := by unfold State.tickByte; (repeat' split) <;> rfl
@[simp] theorem State.tickByte_ioDraws (s : State) : (s.tickByte).ioDraws = s.ioDraws := by unfold State.tickByte; (repeat' split) <;> rfl
@[simp] theorem State.tickByte_ioCount (s : State) : (s.tickByte).ioCount = s.ioCount := by unfold State.tickByte; (repeat' split) <;> rfl
@[simp] theorem State.tickByte_pending (s : State) : (s.tickByte).pending = s.pending := by unfold State.tickByte; (repeat' split) <;> rfl

/-! `State.tickReady`. -/

@[simp] theorem State.tickReady_trackReg (s : State) : (s.tickReady).trackReg = s.trackReg := by unfold State.tickReady; split <;> rfl
@[simp] theorem State.tickReady_sectorReg (s : State) : (s.tickReady).sectorReg = s.sectorReg := by unfold State.tickReady; split <;> rfl
@[simp] theorem State.tickReady_dataReg (s : State) : (s.tickReady).dataReg = s.dataReg := by unfold State.tickReady; split <;> rfl
@[simp] theorem State.tickReady_side (s : State) : (s.tickReady).side = s.side := by unfold State.tickReady; split <;> rfl
@[simp] theorem State.tickReady_activeDrive (s : State) : (s.tickReady).activeDrive = s.activeDrive := by unfold State.tickReady; split <;> rfl
@[simp] theorem State.tickReady_stepDirection (s : State) : (s.tickReady).stepDirection = s.stepDirection := by unfold State.tickReady; split <;> rfl
@[simp] theorem State.tickReady_flags (s : State) : (s.tickReady).flags = s.flags := by unfold State.tickReady; split <;> rfl
@[simp] theorem State.tickReady_drives (s : State) : (s.tickReady).drives = s.drives := by unfold State.tickReady; split <;> rfl
@[simp] theorem State.tickReady_busyDelay (s : State) : (s.tickReady).busyDelay = s.busyDelay := by unfold State.tickReady; split <;> rfl
@[simp] theorem State.tickReady_byteDelay (s : State) : (s.tickReady).byteDelay = s.byteDelay := by unfold State.tickReady; split <;> rfl
@[simp] theorem State.tickReady_indexCountdown (s : State) : (s.tickReady).indexCountdown = s.indexCountdown := by unfold State.tickReady; split <;> rfl
@[simp] theorem State.tickReady_indexState (s : State) : (s.tickReady).indexState = s.indexState := by unfold State.tickReady; split <;> rfl
@[simp] theorem State.tickReady_xfer (s : State) : (s.tickReady).xfer = s.xfer := by unfold State.tickReady; split <;> rfl
@[simp] theorem State.tickReady_buf (s : State) : (s.tickReady).buf = s.buf := by unfold State.tickReady; split <;> rfl
@[simp] theorem State.tickReady_position (s : State) : (s.tickReady).position = s.position := by unfold State.tickReady; split <;> rfl
@[simp] theorem State.tickReady_used (s : State) : (s.tickReady).used = s.used := by unfold State.tickReady; split <;> rfl
@[simp] theorem State.tickReady_raCounter (s : State) : (s.tickReady).raCounter = s.raCounter := by unfold State.tickReady; split <;> rfl
@[simp] theorem State.tickReady_lastType (s : State) : (s.tickReady).lastType = s.lastType := by unfold State.tickReady; split <;> rfl
@[simp] theorem State.tickReady_files (s : State) : (s.tickReady).files = s.files := by unfold State.tickReady; split <;> rfl
@[simp] theorem State.tickReady_params (s : State) : (s.tickReady).params = s.params := by unfold State.tickReady; split <;> rfl
@[simp] theorem State.tickReady_log (s : State) : (s.tickReady).log = s.log := by unfold State.tickReady; split <;> rfl
@[simp] theorem State.tickReady_lastRead (s : State) : (s.tickReady).lastRead = s.lastRead := by unfold State.tickReady; split <;> rfl
@[simp] theorem State.tickReady_ioDraws (s : State) : (s.tickReady).ioDraws = s.ioDraws := by unfold State.tickReady; split <;> rfl
@[simp] theorem State.tickReady_ioCount (s : State) : (s.tickReady).ioCount = s.ioCount := by unfold State.tickReady; split <;> rfl
@[simp] theorem State.tickReady_pending (s : State) : (s.tickReady).pending = s.pending := by unfold State.tickReady; split <;> rfl

/-! `State.tickBusy`. -/

@[simp] theorem State.tickBusy_trackReg (s : State) : (s.tickBusy).trackReg = s.trackReg := by unfold State.tickBusy; (repeat' split) <;> rfl
@[simp] theorem State.tickBusy_sectorReg (s : State) : (s.tickBusy).sectorReg = s.sectorReg := by unfold State.tickBusy; (repeat' split) <;> rfl
@[simp] theorem State.tickBusy_dataReg (s : State) : (s.tickBusy).dataReg = s.dataReg := by unfold State.tickBusy; (repeat' split) <;> rfl
@[simp] theorem State.tickBusy_side (s : State) : (s.tickBusy).side = s.side := by unfold State.tickBusy; (repeat' split) <;> rfl
@[simp] theorem State.tickBusy_activeDrive (s : State) : (s.tickBusy).activeDrive = s.activeDrive := by unfold State.tickBusy; (repeat' split) <;> rfl
@[simp] theorem State.tickBusy_stepDirection (s : State) : (s.tickBusy).stepDirection = s.stepDirection := by unfold State.tickBusy; (repeat' split) <;> rfl
@[simp] theorem State.tickBusy_drives (s : State) : (s.tickBusy).drives = s.drives := by unfold State.tickBusy; (repeat' split) <;> rfl
@[simp] theorem State.tickBusy_readyDelay (s : State) : (s.tickBusy).readyDelay = s.readyDelay := by unfold State.tickBusy; (repeat' split) <;> rfl
@[simp] theorem State.tickBusy_byteDelay (s : State) : (s.tickBusy).byteDelay = s.byteDelay := by unfold State.tickBusy; (repeat' split) <;> rfl
@[simp] theorem State.tickBusy_indexCountdown (s : State) : (s.tickBusy).indexCountdown = s.indexCountdown := by unfold State.tickBusy; (repeat' split) <;> rfl
@[simp] theorem State.tickBusy_indexState (s : State) : (s.tickBusy).indexState = s.indexState := by unfold State.tickBusy; (repeat' split) <;> rfl
@[simp] theorem State.tickBusy_xfer (s : State) : (s.tickBusy).xfer = s.xfer := by unfold State.tickBusy; (repeat' split) <;> rfl
@[simp] theorem State.tickBusy_buf (s : State) : (s.tickBusy).buf = s.buf := by unfold State.tickBusy; (repeat' split) <;> rfl
@[simp] theorem State.tickBusy_position (s : State) : (s.tickBusy).position = s.position := by unfold State.tickBusy; (repeat' split) <;> rfl
@[simp] theorem State.tickBusy_used (s : State) : (s.tickBusy).used = s.used := by unfold State.tickBusy; (repeat' split) <;> rfl
@[simp] theorem State.tickBusy_raCounter (s : State) : (s.tickBusy).raCounter = s.raCounter := by unfold State.tickBusy; (repeat' split) <;> rfl
@[simp] theorem State.tickBusy_lastType (s : State) : (s.tickBusy).lastType = s.lastType := by unfold State.tickBusy; (repeat' split) <;> rfl
@[simp] theorem State.tickBusy_files (s : State) : (s.tickBusy).files = s.files := by unfold State.tickBusy; (repeat' split) <;> rfl
@[simp] theorem State.tickBusy_params (s : State) : (s.tickBusy).params = s.params := by unfold State.tickBusy; (repeat' split) <;> rfl
@[simp] theorem State.tickBusy_log (s : State) : (s.tickBusy).log = s.log := by unfold State.tickBusy; (repeat' split) <;> rfl
@[simp] theorem State.tickBusy_lastRead (s : State) : (s.tickBusy).lastRead = s.lastRead := by unfold State.tickBusy; (repeat' split) <;> rfl
@[simp] theorem State.tickBusy_ioDraws (s : State) : (s.tickBusy).ioDraws = s.ioDraws := by unfold State.tickBusy; (repeat' split) <;> rfl
@[simp] theorem State.tickBusy_ioCount (s : State) : (s.tickBusy).ioCount = s.ioCount := by unfold State.tickBusy; (repeat' split) <;> rfl
@[simp] theorem State.tickBusy_pending (s : State) : (s.tickBusy).pending = s.pending := by unfold State.tickBusy; (repeat' split) <;> rfl

/-! `State.tickIndex`. -/

@[simp] theorem State.tickIndex_trackReg (s : State) : (s.tickIndex).trackReg = s.trackReg := by unfold State.tickIndex; split <;> rfl
@[simp] theorem State.tickIndex_sectorReg (s : State) : (s.tickIndex).sectorReg = s.sectorReg := by unfold State.tickIndex; split <;> rfl
@[simp] theorem State.tickIndex_dataReg (s : State) : (s.tickIndex).dataReg = s.dataReg := by unfold State.tickIndex; split <;> rfl
@[simp] theorem State.tickIndex_side (s : State) : (s.tickIndex).side = s.side := by unfold State.tickIndex; split <;> rfl
@[simp] theorem State.tickIndex_activeDrive (s : State) : (s.tickIndex).activeDrive = s.activeDrive := by unfold State.tickIndex; split <;> rfl
@[simp] theorem State.tickIndex_stepDirection (s : State) : (s.tickIndex).stepDirection = s.stepDirection := by unfold State.tickIndex; split <;> rfl
@[simp] theorem State.tickIndex_flags (s : State) : (s.tickIndex).flags = s.flags := by unfold State.tickIndex; split <;> rfl
@[simp] theorem State.tickIndex_drives (s : State) : (s.tickIndex).drives = s.drives := by unfold State.tickIndex; split <;> rfl
@[simp] theorem State.tickIndex_readyDelay (s : State) : (s.tickIndex).readyDelay = s.readyDelay := by unfold State.tickIndex; split <;> rfl
@[simp] theorem State.tickIndex_busyDelay (s : State) : (s.tickIndex).busyDelay = s.busyDelay := by unfold State.tickIndex; split <;> rfl
@[simp] theorem State.tickIndex_byteDelay (s : State) : (s.tickIndex).byteDelay = s.byteDelay := by unfold State.tickIndex; split <;> rfl
@[simp] theorem State.tickIndex_xfer (s : State) : (s.tickIndex).xfer = s.xfer := by unfold State.tickIndex; split <;> rfl
@[simp] theorem State.tickIndex_buf (s : State) : (s.tickIndex).buf = s.buf := by unfold State.tickIndex; split <;> rfl
@[simp] theorem State.tickIndex_position (s : State) : (s.tickIndex).position = s.position := by unfold State.tickIndex; split <;> rfl
@[simp] theorem State.tickIndex_used (s : State) : (s.tickIndex).used = s.used := by unfold State.tickIndex; split <;> rfl
@[simp] theorem State.tickIndex_raCounter (s : State) : (s.tickIndex).raCounter = s.raCounter := by unfold State.tickIndex; split <;> rfl
@[simp] theorem State.tickIndex_lastType (s : State) : (s.tickIndex).lastType = s.lastType := by unfold State.tickIndex; split <;> rfl
@[simp] theorem State.tickIndex_files (s : State) : (s.tickIndex).files = s.files := by unfold State.tickIndex; split <;> rfl
@[simp] theorem State.tickIndex_params (s : State) : (s.tickIndex).params = s.params := by unfold State.tickIndex; split <;> rfl
@[simp] theorem State.tickIndex_log (s : State) : (s.tickIndex).log = s.log := by unfold State.tickIndex; split <;> rfl
@[simp] theorem State.tickIndex_lastRead (s : State) : (s.tickIndex).lastRead = s.lastRead := by unfold State.tickIndex; split <;> rfl
@[simp] theorem State.tickIndex_ioDraws (s : State) : (s.tickIndex).ioDraws = s.ioDraws := by unfold State.tickIndex; split <;> rfl
@[simp] theorem State.tickIndex_ioCount (s : State) : (s.tickIndex).ioCount = s.ioCount := by unfold State.tickIndex; split <;> rfl
@[simp] theorem State.tickIndex_pending (s : State) : (s.tickIndex).pending = s.pending := by unfold State.tickIndex; split <;> rfl

/-! `State.memWritten`. -/

@[simp] theorem State.memWritten_trackReg (s : State) (p : String) (o : Int) (vs : List Byte) : (s.memWritten p o vs).trackReg = s.trackReg := by unfold State.memWritten; (repeat' split) <;> rfl
@[simp] theorem State.memWritten_sectorReg (s : State) (p : String) (o : Int) (vs : List Byte) : (s.memWritten p o vs).sectorReg = s.sectorReg := by unfold State.memWritten; (repeat' split) <;> rfl
@[simp] theorem State.memWritten_dataReg (s : State) (p : String) (o : Int) (vs : List Byte) : (s.memWritten p o vs).dataReg = s.dataReg := by unfold State.memWritten; (repeat' split) <;> rfl
@[simp] theorem State.memWritten_side (s : State) (p : String) (o : Int) (vs : List Byte) : (s.memWritten p o vs).side = s.side := by unfold State.memWritten; (repeat' split) <;> rfl
@[simp] theorem State.memWritten_activeDrive (s : State) (p : String) (o : Int) (vs : List Byte) : (s.memWritten p o vs).activeDrive = s.activeDrive := by unfold State.memWritten; (repeat' split) <;> rfl
@[simp] theorem State.memWritten_stepDirection (s : State) (p : String) (o : Int) (vs : List Byte) : (s.memWritten p o vs).stepDirection = s.stepDirection := by unfold State.memWritten; (repeat' split) <;> rfl
@[simp] theorem State.memWritten_flags (s : State) (p : String) (o : Int) (vs : List Byte) : (s.memWritten p o vs).flags = s.flags := by unfold State.memWritten; (repeat' split) <;> rfl
@[simp] theorem State.memWritten_drives (s : State) (p : String) (o : Int) (vs : List Byte) : (s.memWritten p o vs).drives = s.drives := by unfold State.memWritten; (repeat' split) <;> rfl
@[simp] theorem State.memWritten_readyDelay (s : State) (p : String) (o : Int) (vs : List Byte) : (s.memWritten p o vs).readyDelay = s.readyDelay := by unfold State.memWritten; (repeat' split) <;> rfl
@[simp] theorem State.memWritten_busyDelay (s : State) (p : String) (o : Int) (vs : List Byte) : (s.memWritten p o vs).busyDelay = s.busyDelay := by unfold State.memWritten; (repeat' split) <;> rfl
@[simp] theorem State.memWritten_byteDelay (s : State) (p : String) (o : Int) (vs : List Byte) : (s.memWritten p o vs).byteDelay = s.byteDelay := by unfold State.memWritten; (repeat' split) <;> rfl
@[simp] theorem State.memWritten_indexCountdown (s : State) (p : String) (o : Int) (vs : List Byte) : (s.memWritten p o vs).indexCountdown = s.indexCountdown := by unfold State.memWritten; (repeat' split) <;> rfl
@[simp] theorem State.memWritten_indexState (s : State) (p : String) (o : Int) (vs : List Byte) : (s.memWritten p o vs).indexState = s.indexState := by unfold State.memWritten; (repeat' split) <;> rfl
@[simp] theorem State.memWritten_xfer (s : State) (p : String) (o : Int) (vs : List Byte) : (s.memWritten p o vs).xfer = s.xfer := by unfold State.memWritten; (repeat' split) <;> rfl
@[simp] theorem State.memWritten_buf (s : State) (p : String) (o : Int) (vs : List Byte) : (s.memWritten p o vs).buf = s.buf := by unfold State.memWritten; (repeat' split) <;> rfl
@[simp] theorem State.memWritten_position (s : State) (p : String) (o : Int) (vs : List Byte) : (s.memWritten p o vs).position = s.position := by unfold State.memWritten; (repeat' split) <;> rfl
@[simp] theorem State.memWritten_used (s : State) (p : String) (o : Int) (vs : List Byte) : (s.memWritten p o vs).used = s.used := by unfold State.memWritten; (repeat' split) <;> rfl
@[simp] theorem State.memWritten_raCounter (s : State) (p : String) (o : Int) (vs : List Byte) : (s.memWritten p o vs).raCounter = s.raCounter := by unfold State.memWritten; (repeat' split) <;> rfl
@[simp] theorem State.memWritten_lastType (s : State) (p : String) (o : Int) (vs : List Byte) : (s.memWritten p o vs).lastType = s.lastType := by unfold State.memWritten; (repeat' split) <;> rfl
@[simp] theorem State.memWritten_params (s : State) (p : String) (o : Int) (vs : List Byte) : (s.memWritten p o vs).params = s.params := by unfold State.memWritten; (repeat' split) <;> rfl
@[simp] theorem State.memWritten_log (s : State) (p : String) (o : Int) (vs : List Byte) : (s.memWritten p o vs).log = s.log := by unfold State.memWritten; (repeat' split) <;> rfl
@[simp] theorem State.memWritten_lastRead (s : State) (p : String) (o : Int) (vs : List Byte) : (s.memWritten p o vs).lastRead = s.lastRead := by unfold State.memWritten; (repeat' split) <;> rfl
@[simp] theorem State.memWritten_ioDraws (s : State) (p : String) (o : Int) (vs : List Byte) : (s.memWritten p o vs).ioDraws = s.ioDraws.tail := by unfold State.memWritten; (repeat' split) <;> rfl
@[simp] theorem State.memWritten_ioCount (s : State) (p : String) (o : Int) (vs : List Byte) : (s.memWritten p o vs).ioCount = s.ioCount + 1 := by unfold State.memWritten; (repeat' split) <;> rfl
@[simp] theorem State.memWritten_pending (s : State) (p : String) (o : Int) (vs : List Byte) : (s.memWritten p o vs).pending = s.pending := by unfold State.memWritten; (repeat' split) <;> rfl

end Sys2Proof.Machine
end

