-- ==== Sys2Proof/Laws/Ops.lean ====
section
/-! SUPPORT. For each shared operation, once, everything it can do. -/

namespace Sys2Proof.Machine

/-! Drives and media. -/

/-- Moving one head: the other slots and the slot's descriptor stay. -/
theorem State.setCurrentTrack_drive (s : State) (a b : Fin 4) (t : Nat) :
    (s.setCurrentTrack a t).drive b = if b = a then { s.drive a with currentTrack := t } else s.drive b := by
  by_cases h : b = a
  · subst h; simp [State.drive, State.setCurrentTrack]
  · simp [State.drive, State.setCurrentTrack, h, Vector.getElem_set, eq_comm]
    intro hh; exact absurd (Fin.ext hh.symm) h

theorem State.selected_eq_some {s : State} {d : Drive} :
    s.selected = some d ↔ ∃ a, s.activeDrive = some a ∧ s.drive a = d := by
  simp [State.selected]

/-- There is media exactly where a drive is selected and its slot names an image. -/
theorem State.activeMedia_eq_some {s : State} {d : Drive} {p : String} :
    s.activeMedia = some (d, p) ↔ ∃ a, s.activeDrive = some a ∧ s.drive a = d ∧ d.desc.imagePath = some p := by
  simp only [State.activeMedia, State.selected]
  cases h : s.activeDrive with
  | none => simp
  | some a =>
    simp only [Option.map_some, Option.some.injEq, exists_eq_left']
    cases hp : (s.drive a).desc.imagePath <;> constructor <;> intro hh <;> simp_all

theorem State.activeMedia_eq_none {s : State} :
    s.activeMedia = none ↔ ∀ a, s.activeDrive = some a → (s.drive a).desc.imagePath = none := by
  simp only [State.activeMedia, State.selected]
  cases h : s.activeDrive with
  | none => simp
  | some a => cases hp : (s.drive a).desc.imagePath <;> simp_all

/-- The not-ready predicate as 40_command_decoder.md R119 writes it. -/
theorem State.notReadyMedia_iff {s : State} :
    s.notReadyMedia = true ↔
      s.activeDrive = none ∨ (∃ a, s.activeDrive = some a ∧ (s.drive a).desc.imagePath = none) ∨ s.readyDelay > 1 := by
  simp only [State.notReadyMedia, Bool.or_eq_true, Option.isNone_iff_eq_none, decide_eq_true_eq,
    State.activeMedia_eq_none]
  cases h : s.activeDrive <;> simp

theorem State.readyMedia_eq_some {s : State} {d : Drive} {p : String} :
    s.readyMedia = some (d, p) ↔ s.activeMedia = some (d, p) ∧ s.readyDelay ≤ 1 := by
  unfold State.readyMedia
  by_cases h : s.notReadyMedia = true
  · rw [if_pos h]
    simp only [State.notReadyMedia, Bool.or_eq_true, Option.isNone_iff_eq_none, decide_eq_true_eq] at h
    rcases h with h | h
    · simp [h]
    · simp only [reduceCtorEq, false_iff, not_and]; omega
  · rw [if_neg h]
    simp only [State.notReadyMedia, Bool.or_eq_true, Option.isNone_iff_eq_none, decide_eq_true_eq, not_or] at h
    exact ⟨fun hh => ⟨hh, by omega⟩, fun hh => hh.1⟩

theorem State.readyMedia_eq_none {s : State} : s.readyMedia = none ↔ s.notReadyMedia = true := by
  unfold State.readyMedia
  by_cases h : s.notReadyMedia = true
  · simp [h]
  · rw [if_neg h]
    simp only [State.notReadyMedia, Bool.or_eq_true, Option.isNone_iff_eq_none, decide_eq_true_eq, not_or] at h
    simp [h.1, State.notReadyMedia, h.2]

/-- A ready drive, from its parts. -/
theorem State.readyMedia_of {s : State} {a : Fin 4} {p : String} (ha : s.activeDrive = some a)
    (hp : (s.drive a).desc.imagePath = some p) (hr : s.readyDelay ≤ 1) : s.readyMedia = some (s.drive a, p) :=
  State.readyMedia_eq_some.mpr ⟨State.activeMedia_eq_some.mpr ⟨a, ha, rfl, hp⟩, hr⟩

/-! The prologue leaves the drives, the media and the counters as they were. -/

@[simp] theorem State.prologue_drive (s : State) (t : CommandType) (b : Option Bool) (a : Fin 4) :
    (s.prologue t b).drive a = s.drive a := rfl

@[simp] theorem State.prologue_activeMedia (s : State) (t : CommandType) (b : Option Bool) :
    (s.prologue t b).activeMedia = s.activeMedia := rfl

@[simp] theorem State.prologue_notReadyMedia (s : State) (t : CommandType) (b : Option Bool) :
    (s.prologue t b).notReadyMedia = s.notReadyMedia := rfl

@[simp] theorem State.prologue_readyMedia (s : State) (t : CommandType) (b : Option Bool) :
    (s.prologue t b).readyMedia = s.readyMedia := rfl

/-! The busy gate. -/

theorem State.command_of_busy {s : State} (h : s.flags.busy = true) (t : CommandType) (b : Option Bool)
    (body : State → State) : s.command t b body = s.logged .droppedWhileBusy := by simp [State.command, h]

theorem State.command_of_idle {s : State} (h : s.flags.busy = false) (t : CommandType) (b : Option Bool)
    (body : State → State) : s.command t b body = body (s.prologue t b) := by simp [State.command, h]

/-- All that a gated command can do: be dropped, or run its body after the prologue. -/
theorem State.command_cases (s : State) (t : CommandType) (b : Option Bool) (body : State → State) :
    (s.flags.busy = true ∧ s.command t b body = s.logged .droppedWhileBusy) ∨
      (s.flags.busy = false ∧ s.command t b body = body (s.prologue t b)) := by
  cases h : s.flags.busy
  · exact .inr ⟨rfl, State.command_of_idle h t b body⟩
  · exact .inl ⟨rfl, State.command_of_busy h t b body⟩

/-! Type I. -/

theorem State.headLoad_flags (s : State) (h : Bool) :
    (s.headLoad h).flags = { s.flags with headLoaded := s.flags.headLoaded || (h && s.activeDrive.isSome) } := by
  unfold State.headLoad
  by_cases hh : (h && s.activeDrive.isSome) = true
  · simp [hh]
  · simp only [Bool.not_eq_true] at hh; simp [hh]

theorem State.finishTypeI_flags (s : State) :
    s.finishTypeI.flags =
      { s.flags with
        busy := false, interruptRequest := s.flags.interruptRequest || decide (s.params.holdTypeI.val = 0) } := by
  unfold State.finishTypeI
  split <;> simp_all

theorem State.finishTypeI_busyDelay (s : State) :
    s.finishTypeI.busyDelay = if s.params.holdTypeI.val = 0 then s.busyDelay else s.params.holdTypeI.val := by
  unfold State.finishTypeI
  split <;> simp_all

/-- A step moves nothing where no drive is selected, and one head otherwise. -/
theorem State.stepMove_eq (s : State) (u : Bool) :
    (s.activeDrive = none ∧ s.stepMove u = s) ∨
      ∃ a, s.activeDrive = some a ∧
        s.stepMove u =
          { s.setCurrentTrack a (steppedTrack s.stepDirection (s.drive a)) with
            trackReg := if u then toByte (steppedTrack s.stepDirection (s.drive a)) else s.trackReg } := by
  unfold State.stepMove
  split
  · rename_i h; exact .inl ⟨h, rfl⟩
  · rename_i a h; exact .inr ⟨a, h, rfl⟩

/-- A step never leaves the tracks of the drive. -/
theorem steppedTrack_le (dir : StepDirection) {d : Drive} (h : d.currentTrack ≤ d.desc.tracks - 1) :
    steppedTrack dir d ≤ d.desc.tracks - 1 := by
  cases dir <;> simp only [steppedTrack] <;> omega

/-! The poll counters. -/

/-- The byte tick: nothing without a waiting transfer; a count above 1 goes down; otherwise DRQ. -/
theorem State.tickByte_cases (s : State) :
    ((s.xfer = .idle ∨ s.flags.dataRequest = true) ∧ s.tickByte = s) ∨
      (s.xfer ≠ .idle ∧ s.flags.dataRequest = false ∧ s.byteDelay > 1 ∧
        s.tickByte = { s with byteDelay := s.byteDelay - 1 }) ∨
      (s.xfer ≠ .idle ∧ s.flags.dataRequest = false ∧ s.byteDelay ≤ 1 ∧
        s.tickByte = { s with flags := { s.flags with dataRequest := true } }) := by
  unfold State.tickByte
  by_cases h1 : s.xfer = .idle
  · simp [h1]
  · cases h2 : s.flags.dataRequest
    · by_cases h3 : s.byteDelay > 1
      · simp [h1, h3]
      · simp [h1, h3]; omega
    · simp

theorem State.tickReady_readyDelay (s : State) :
    s.tickReady.readyDelay = if s.readyDelay > 1 then s.readyDelay - 1 else s.readyDelay := by
  unfold State.tickReady
  split <;> rfl

theorem State.tickBusy_busyDelay (s : State) : s.tickBusy.busyDelay = s.busyDelay - 1 := by
  unfold State.tickBusy
  split
  · split
    · simp_all
    · rfl
  · omega

theorem State.tickBusy_flags (s : State) :
    s.tickBusy.flags =
      { s.flags with interruptRequest := s.flags.interruptRequest || decide (s.busyDelay = 1) } := by
  unfold State.tickBusy
  split
  · split
    · simp_all
    · simp_all
  · rename_i h; simp [show ¬ s.busyDelay = 1 by omega]

theorem State.tickIndex_indexCountdown (s : State) :
    s.tickIndex.indexCountdown =
      if s.indexCountdown ≤ 1 then s.params.indexPeriod.polls else s.indexCountdown - 1 := by
  unfold State.tickIndex
  by_cases h : s.indexCountdown ≤ 1
  · simp [h, show s.indexCountdown - 1 = 0 by omega]
  · simp [h, show ¬ s.indexCountdown - 1 = 0 by omega]

theorem State.tickIndex_indexState (s : State) :
    s.tickIndex.indexState = if s.indexCountdown ≤ 1 then !s.indexState else s.indexState := by
  unfold State.tickIndex
  by_cases h : s.indexCountdown ≤ 1
  · simp [h, show s.indexCountdown - 1 = 0 by omega]
  · simp [h, show ¬ s.indexCountdown - 1 = 0 by omega]

/-! The bytes synthesized from flags. -/

theorem flagAt_getLsbD (b : Bool) {i : Nat} (hi : i < 8) (j : Nat) : (flagAt b i).getLsbD j = (b && decide (j = i)) := by
  cases b
  · simp [flagAt]
  · have key : ∀ i : Fin 8, ∀ j : Fin 8, (flagAt true i.val).getLsbD j.val = decide (j.val = i.val) := by decide
    by_cases hj : j < 8
    · simpa using key ⟨i, hi⟩ ⟨j, hj⟩
    · rw [BitVec.getLsbD_of_ge _ _ (by omega)]
      simp [show ¬ j = i by omega]

/-! Transfers. -/

/-- All that a data-port read does to the stream. -/
theorem State.streamNext_cases (s : State) :
    (s.xfer ≠ .readOut ∧ s.streamNext = s) ∨
      (s.xfer = .readOut ∧ s.position < s.used ∧
        s.streamNext =
          { s with
            dataReg := s.buf.getD s.position 0, position := s.position + 1,
            flags := { s.flags with dataRequest := false }, byteDelay := s.params.byteDelay.polls }) ∨
      (s.xfer = .readOut ∧ s.used ≤ s.position ∧
        s.streamNext =
          { s with
            xfer := .idle, position := 0, used := 0,
            flags := { s.flags with dataRequest := false, interruptRequest := true } }) := by
  unfold State.streamNext
  by_cases h1 : s.xfer = .readOut
  · by_cases h2 : s.position < s.used
    · simp [h1, h2]
    · simp [h1, h2, State.endTransfer]; omega
  · simp [h1]

/-- All that a data-port write does. -/
theorem State.putData_cases (s : State) (v : Byte) :
    ((s.xfer = .idle ∨ s.xfer = .readOut) ∧ s.putData v = s.loadData v) ∨
      ((s.xfer = .writeSectorIn ∨ s.xfer = .writeTrackIn) ∧ s.flags.dataRequest = false ∧
        s.putData v = (s.loadData v).logged .unexpectedDataByte) ∨
      ((s.xfer = .writeSectorIn ∨ s.xfer = .writeTrackIn) ∧ s.flags.dataRequest = true ∧
        s.putData v = (s.loadData v).acceptByte v) := by
  unfold State.putData
  cases h1 : s.xfer <;> cases h2 : s.flags.dataRequest <;> simp

/-- All that arming a write transfer can do. -/
theorem State.armWriteBody_cases (s : State) (m : Xfer) :
    (s.notReadyMedia = true ∧ s.armWriteBody m = s.raise .notReady) ∨
      ∃ d p, s.readyMedia = some (d, p) ∧
        ((d.desc.writeProtect = true ∧ s.armWriteBody m = s.raise .writeProtected) ∨
          (d.desc.writeProtect = false ∧
            s.armWriteBody m = { s with used := d.desc.sectorSize }.armWrite m)) := by
  unfold State.armWriteBody
  cases h : s.readyMedia with
  | none => exact .inl ⟨State.readyMedia_eq_none.mp h, rfl⟩
  | some x =>
    obtain ⟨d, p⟩ := x
    refine .inr ⟨d, p, rfl, ?_⟩
    cases hw : d.desc.writeProtect <;> simp [hw]

/-- All that ReadSector's body can do: a fault with its flags, or the sector in the buffer and its first byte in
`DR`. -/
theorem State.readSectorBody_cases (s : State) :
    (∃ f, s.readSectorBody = s.raise f) ∨
      s.readSectorBody = { s.ioTaken with readyDelay := s.params.readyDelayIoErr.polls }.raise .hostIoError ∨
      ∃ d p off bs, s.readyMedia = some (d, p) ∧ s.trackReg.toNat = d.currentTrack ∧ s.sectorOffset d = .ok off ∧
        s.memRead p off d.desc.sectorSize = some bs ∧
        s.readSectorBody = (s.ioTaken.fillBuffer bs).armRead.notBusy := by
  unfold State.readSectorBody
  cases h : s.readyMedia with
  | none => exact .inl ⟨_, rfl⟩
  | some x =>
    obtain ⟨d, p⟩ := x
    by_cases ht : s.trackReg.toNat = d.currentTrack
    · simp only [ht, ne_eq, not_true_eq_false, if_false]
      cases ho : s.sectorOffset d with
      | error e => exact .inl ⟨_, rfl⟩
      | ok off =>
        simp only
        cases hm : s.memRead p off d.desc.sectorSize with
        | none => exact .inr (.inl rfl)
        | some bs => exact .inr (.inr ⟨d, p, off, bs, rfl, rfl, ho, hm, rfl⟩)
    · simp only [ht, ne_eq, not_false_eq_true, if_true]
      exact .inl ⟨_, rfl⟩

/-- All that a write commit can do: a fault, or the bytes handed to the file. -/
theorem State.commitWriteSector_cases (s : State) :
    (∃ f, s.commitWriteSector = s.raise f) ∨
      ∃ d p off, s.activeMedia = some (d, p) ∧ d.desc.writeProtect = false ∧ s.trackReg.toNat = d.currentTrack ∧
        s.sectorOffset d = .ok off ∧
        ((s.memWriteOk p off (s.buf.take s.used).length = true ∧
            s.commitWriteSector = (s.memWritten p off (s.buf.take s.used)).commitDone) ∨
          (s.memWriteOk p off (s.buf.take s.used).length = false ∧
            s.commitWriteSector = (s.memWritten p off (s.buf.take s.used)).raise .hostIoError)) := by
  unfold State.commitWriteSector
  cases h : s.activeMedia with
  | none => exact .inl ⟨_, rfl⟩
  | some x =>
    obtain ⟨d, p⟩ := x
    simp only
    cases hw : d.desc.writeProtect with
    | true => exact .inl ⟨.writeProtected, by simp⟩
    | false =>
      by_cases ht : s.trackReg.toNat = d.currentTrack
      · simp only [ht, ne_eq, not_true_eq_false, if_false, Bool.false_eq_true]
        cases ho : s.sectorOffset d with
        | error e => exact .inl ⟨_, rfl⟩
        | ok off =>
          refine .inr ⟨d, p, off, rfl, hw, rfl, ho, ?_⟩
          cases hk : s.memWriteOk p off (s.buf.take s.used).length
          · exact .inr ⟨rfl, by simp only [hk, Bool.false_eq_true, if_false]⟩
          · exact .inl ⟨rfl, by simp only [hk, if_true]⟩
      · simp only [ht, ne_eq, not_false_eq_true, if_true, Bool.false_eq_true, if_false]
        exact .inl ⟨_, rfl⟩

/-- The counter of ReadAddress stays in the drive's sector count. -/
theorem raNext_le (c n : Nat) : raNext c n ≤ n := by
  unfold raNext; split <;> omega

end Sys2Proof.Machine
end

