-- ==== Sys2Proof/Laws/PerInstr.lean ====
section
/-! SUPPORT. A fact about every instruction as encoded data, one lemma for each constructor of Instr. -/

namespace Sys2Proof.Laws

/-- The number an encoded instruction has under the numbering of spec/opcode_table.json: of a port access the access
word, of a command its byte. -/
def tableNumber : FetchWord → Nat
  | .access a _ => a.toNat
  | .command c => c.toNat

/-- The mask of an instruction's row of spec/opcode_table.json. -/
def rowMask : Instr → Nat
  | .readDrivePort | .writeDriveSelect _ | .readUnmapped | .writeUnmapped _ => 0b1110
  | .readStatus | .writeCommand _ | .readTrackRegister | .writeTrackRegister _
  | .readSectorRegister | .writeSectorRegister _ | .readData | .writeData _ => 0b1111
  | .restore _ | .seek _ | .step _ | .stepUpdate _ | .stepIn _ | .stepInUpdate _ | .stepOut _ | .stepOutUpdate _
  | .readSector _ | .readSectorMulti _ | .writeSector _ | .writeSectorMulti _
  | .readAddress _ | .readTrack _ | .writeTrack _ | .forceInterrupt => 0xF0

/-- The match value of an instruction's row of spec/opcode_table.json. -/
def rowMatch : Instr → Nat
  | .restore _ => 0x00
  | .seek _ => 0x10
  | .step _ => 0x20
  | .stepUpdate _ => 0x30
  | .stepIn _ => 0x40
  | .stepInUpdate _ => 0x50
  | .stepOut _ => 0x60
  | .stepOutUpdate _ => 0x70
  | .readSector _ => 0x80
  | .readSectorMulti _ => 0x90
  | .writeSector _ => 0xA0
  | .writeSectorMulti _ => 0xB0
  | .readAddress _ => 0xC0
  | .forceInterrupt => 0xD0
  | .readTrack _ => 0xE0
  | .writeTrack _ => 0xF0
  | .readStatus => 0b0000
  | .writeCommand _ => 0b1000
  | .readTrackRegister => 0b0001
  | .writeTrackRegister _ => 0b1001
  | .readSectorRegister => 0b0010
  | .writeSectorRegister _ => 0b1010
  | .readData => 0b0011
  | .writeData _ => 0b1011
  | .readDrivePort => 0b0100
  | .writeDriveSelect _ => 0b1100
  | .readUnmapped => 0b0110
  | .writeUnmapped _ => 0b1110

/-- The encoding of an instruction carries the fixed bits of its row. -/
def RowBits.Statement (i : Instr) : Prop := tableNumber (encode i) &&& rowMask i = rowMatch i

theorem RowBits.restore (h : Bool) : RowBits.Statement (.restore h) := by cases h <;> rfl
theorem RowBits.seek (h : Bool) : RowBits.Statement (.seek h) := by cases h <;> rfl
theorem RowBits.step (h : Bool) : RowBits.Statement (.step h) := by cases h <;> rfl
theorem RowBits.stepUpdate (h : Bool) : RowBits.Statement (.stepUpdate h) := by cases h <;> rfl
theorem RowBits.stepIn (h : Bool) : RowBits.Statement (.stepIn h) := by cases h <;> rfl
theorem RowBits.stepInUpdate (h : Bool) : RowBits.Statement (.stepInUpdate h) := by cases h <;> rfl
theorem RowBits.stepOut (h : Bool) : RowBits.Statement (.stepOut h) := by cases h <;> rfl
theorem RowBits.stepOutUpdate (h : Bool) : RowBits.Statement (.stepOutUpdate h) := by cases h <;> rfl
theorem RowBits.readSector (b : Bool) : RowBits.Statement (.readSector b) := by cases b <;> rfl
theorem RowBits.readSectorMulti (b : Bool) : RowBits.Statement (.readSectorMulti b) := by cases b <;> rfl
theorem RowBits.writeSector (b : Bool) : RowBits.Statement (.writeSector b) := by cases b <;> rfl
theorem RowBits.writeSectorMulti (b : Bool) : RowBits.Statement (.writeSectorMulti b) := by cases b <;> rfl
theorem RowBits.readAddress (b : Bool) : RowBits.Statement (.readAddress b) := by cases b <;> rfl
theorem RowBits.readTrack (b : Bool) : RowBits.Statement (.readTrack b) := by cases b <;> rfl
theorem RowBits.writeTrack (b : Bool) : RowBits.Statement (.writeTrack b) := by cases b <;> rfl
theorem RowBits.forceInterrupt : RowBits.Statement .forceInterrupt := rfl
theorem RowBits.readStatus : RowBits.Statement .readStatus := rfl
theorem RowBits.writeCommand (c : Byte) : RowBits.Statement (.writeCommand c) := by
  simp [RowBits.Statement, encode, tableNumber, rowMask, rowMatch]
theorem RowBits.readTrackRegister : RowBits.Statement .readTrackRegister := rfl
theorem RowBits.writeTrackRegister (v : Byte) : RowBits.Statement (.writeTrackRegister v) := by
  simp [RowBits.Statement, encode, tableNumber, rowMask, rowMatch]
theorem RowBits.readSectorRegister : RowBits.Statement .readSectorRegister := rfl
theorem RowBits.writeSectorRegister (v : Byte) : RowBits.Statement (.writeSectorRegister v) := by
  simp [RowBits.Statement, encode, tableNumber, rowMask, rowMatch]
theorem RowBits.readData : RowBits.Statement .readData := rfl
theorem RowBits.writeData (v : Byte) : RowBits.Statement (.writeData v) := by
  simp [RowBits.Statement, encode, tableNumber, rowMask, rowMatch]
theorem RowBits.readDrivePort : RowBits.Statement .readDrivePort := rfl
theorem RowBits.writeDriveSelect (v : Byte) : RowBits.Statement (.writeDriveSelect v) := by
  simp [RowBits.Statement, encode, tableNumber, rowMask, rowMatch]
theorem RowBits.readUnmapped : RowBits.Statement .readUnmapped := rfl
theorem RowBits.writeUnmapped (v : Byte) : RowBits.Statement (.writeUnmapped v) := by
  simp [RowBits.Statement, encode, tableNumber, rowMask, rowMatch]

end Sys2Proof.Laws
end

