-- ==== Sys2Proof/Tests/Slice0.lean ====
section
/-! SUPPORT. The model's own tests. Expected results are those of 95_test_vectors.md (the vector is named) or of the
encoding tables of 30_encoding.md; the last part shows, for each statement with hypotheses, a state that meets them. -/

namespace Sys2Proof.Tests

open Sys2Proof Sys2Proof.Machine

/-! The conventions of 95_test_vectors.md. -/

/-- `BYTE_DELAY = 1`, `READY_DELAY_IOERR = 3`, `HOLD_FORCE = 2`, `HOLD_TYPE_I = 0`, `INDEX_PERIOD = 1000`; a `Delay`
is held as its value less one. -/
def params : Params :=
  { byteDelay := 0, readyDelayIoErr := 2, holdForce := 1, holdTypeI := 0, indexPeriod := 999, eraseByte := 0xE5,
    nrAddrFf := true }

/-- Drive E. -/
def descE : Descriptor :=
  { heads := 1, tracks := 40, sectorsPerTrack := 10, firstSectorNumber := 1, sectorSize := 128, interleaved := false,
    sidesSwapped := false, reverseSide0 := false, reverseSide1 := false, writeProtect := false,
    imagePath := some "a.img" }

/-- An image of drive E's size, with only the byte at offset 2817 not 0: `7 * 2817` is 7 modulo 256. -/
def image : List ImageFile := [{ path := "a.img", mem := { size := 51200, cells := [(2817, 7)] } }]

/-- The start state of the vectors, drive E in slot 0 with its head at track `t`. -/
def start (t : Nat) : State :=
  { State.reset with
    params := params, indexCountdown := 1000, files := image, ioDraws := [false],
    drives := #v[{ desc := descE, currentTrack := t }, { desc := Descriptor.unmounted, currentTrack := 0 },
      { desc := Descriptor.unmounted, currentTrack := 0 }, { desc := Descriptor.unmounted, currentTrack := 0 }] }

/-- The start state with drive E write-protected. -/
def protectedDrive : State :=
  { start 2 with
    trackReg := 2,
    drives := (start 2).drives.set 0 { desc := { descE with writeProtect := true }, currentTrack := 2 } }

/-- Track 2, sector 3, as vectors S1 and S14 have it. -/
def ready : State := { start 2 with trackReg := 2, sectorReg := 3 }

/-- The same with a sector write of which 127 bytes are accepted and DRQ is raised. -/
def lastByte : State :=
  { ready with
    xfer := .writeSectorIn, position := 127, used := 128, lastType := .typeII,
    flags := { Indicators.clear with busy := true, dataRequest := true } }

/-- The same in a WriteTrack. -/
def lastTrackByte : State := { lastByte with xfer := .writeTrackIn, lastType := .typeIII }

/-- An armed write transfer. -/
def armed : State :=
  { ready with
    xfer := .writeSectorIn, position := 0, used := 128, lastType := .typeII,
    flags := { Indicators.clear with busy := true } }

/-- Vector E1: an armed read of two bytes. -/
def reading : State :=
  { start 0 with buf := [0x11, 0x22], used := 2, position := 1, dataReg := 0x11, xfer := .readOut, lastType := .typeII }

/-- The state after an instruction. -/
def after (i : Instr) (s : State) : State :=
  match exec i s with
  | .next t => t
  | .fault _ => s
  | .refused _ => s

/-- The byte an instruction gives the guest. -/
def got (i : Instr) (s : State) : Option Byte := (after i s).lastRead

/-- What a status read after `s` returns, and what a drive-port read after `s` returns. -/
def reads (s : State) : Option Byte × Option Byte := (got .readStatus s, got .readDrivePort s)

/-! Well-formedness: each check refuses a descriptor that breaks it (60_exceptions.md R271, 00_scope.md R8). -/

theorem test_wellFormed_accepts : descE.wellFormed = true := by decide
theorem test_wellFormed_sector_size : { descE with sectorSize := 384 }.wellFormed = false := by decide
theorem test_wellFormed_no_sector : { descE with sectorsPerTrack := 0 }.wellFormed = false := by decide
theorem test_wellFormed_no_track : { descE with tracks := 0 }.wellFormed = false := by decide
theorem test_wellFormed_heads_u8 : { descE with heads := 256 }.wellFormed = false := by decide
theorem test_wellFormed_tracks_u16 : { descE with tracks := 65536 }.wellFormed = false := by decide
theorem test_wellFormed_sectors_u16 : { descE with sectorsPerTrack := 65536 }.wellFormed = false := by decide
theorem test_wellFormed_first_u16 : { descE with firstSectorNumber := 65536 }.wellFormed = false := by decide
theorem test_wellFormed_instr : (Instr.restore true).wellFormed = true := by decide

/-! Decoding: the words of X9 and of 30_encoding.md R90, R97, written out bit by bit. -/

theorem test_decode_restore : decode (.command 0b00001000#8) = .restore true := by decide
theorem test_decode_seek : decode (.command 0b00010111#8) = .seek false := by decide
theorem test_decode_step : decode (.command 0b00100000#8) = .step false := by decide
theorem test_decode_stepUpdate : decode (.command 0b00111000#8) = .stepUpdate true := by decide
theorem test_decode_stepIn : decode (.command 0b01000000#8) = .stepIn false := by decide
theorem test_decode_stepInUpdate : decode (.command 0b01011000#8) = .stepInUpdate true := by decide
theorem test_decode_stepOut : decode (.command 0b01100000#8) = .stepOut false := by decide
theorem test_decode_stepOutUpdate : decode (.command 0b01111000#8) = .stepOutUpdate true := by decide
theorem test_decode_readSector : decode (.command 0b10000010#8) = .readSector true := by decide
theorem test_decode_readSectorMulti : decode (.command 0b10010000#8) = .readSectorMulti false := by decide
theorem test_decode_writeSector : decode (.command 0b10101101#8) = .writeSector false := by decide
theorem test_decode_writeSectorMulti : decode (.command 0b10110010#8) = .writeSectorMulti true := by decide
theorem test_decode_readAddress : decode (.command 0b11000010#8) = .readAddress true := by decide
theorem test_decode_forceInterrupt : decode (.command 0b11011111#8) = .forceInterrupt := by decide
theorem test_decode_readTrack : decode (.command 0b11100000#8) = .readTrack false := by decide
theorem test_decode_writeTrack : decode (.command 0b11110010#8) = .writeTrack true := by decide
theorem test_decode_readStatus : decode (.access 0b0000#4 0) = .readStatus := by decide
theorem test_decode_readTrackRegister : decode (.access 0b0001#4 0) = .readTrackRegister := by decide
theorem test_decode_readSectorRegister : decode (.access 0b0010#4 0) = .readSectorRegister := by decide
theorem test_decode_readData : decode (.access 0b0011#4 0) = .readData := by decide
theorem test_decode_readDrivePort :
    decode (.access 0b0100#4 0) = .readDrivePort ∧ decode (.access 0b0101#4 0) = .readDrivePort := by decide
theorem test_decode_readUnmapped :
    decode (.access 0b0110#4 0) = .readUnmapped ∧ decode (.access 0b0111#4 0) = .readUnmapped := by decide
theorem test_decode_writeCommand : decode (.access 0b1000#4 0xD0#8) = .writeCommand 0xD0#8 := by decide
theorem test_decode_writeTrackRegister : decode (.access 0b1001#4 9) = .writeTrackRegister 9 := by decide
theorem test_decode_writeSectorRegister : decode (.access 0b1010#4 3) = .writeSectorRegister 3 := by decide
theorem test_decode_writeData : decode (.access 0b1011#4 0x5A#8) = .writeData 0x5A#8 := by decide
theorem test_decode_writeDriveSelect :
    decode (.access 0b1100#4 1) = .writeDriveSelect 1 ∧ decode (.access 0b1101#4 1) = .writeDriveSelect 1 := by decide
theorem test_decode_writeUnmapped :
    decode (.access 0b1110#4 1) = .writeUnmapped 1 ∧ decode (.access 0b1111#4 1) = .writeUnmapped 1 := by decide

/-! The numbering of spec/opcode_table.json: a command byte, an access word, an access word with its data byte, and
the three refusals. -/

theorem test_table_command : decodeTableWord 8 0x98 = some (.readSectorMulti false) := by decide
theorem test_table_access : decodeTableWord 4 0b1001 = some (.writeTrackRegister 0) := by decide
theorem test_table_access_data : decodeTableWord 16 0x5A0B = some (.writeData 0x5A) := by decide
theorem test_table_no_length : tableWord 0 0 = .error .noSuchLength := by decide
theorem test_table_too_wide : tableWord 4 16 = .error .valueTooWide := by decide
theorem test_table_no_access : tableWord 16 0x0010 = .error .noSuchAccessWord := by decide

/-! The mapper: vectors X3, M1 to M12. -/

/-- The descriptor of X3 and of the M rows, with `heads` and the layout to be given. -/
def descM (heads : Nat) (interleaved swapped reverse0 reverse1 : Bool) : Descriptor :=
  { descE with
    heads := heads, tracks := 35, sectorsPerTrack := 18, sectorSize := 256, interleaved := interleaved,
    sidesSwapped := swapped, reverseSide0 := reverse0, reverseSide1 := reverse1 }

theorem test_mapper_X3 :
    findOffset (descM 1 true false false false) 0 0 1 = .ok 0 ∧
      findOffset (descM 1 true false false false) 1 0 1 = .ok 4608 := by decide
theorem test_mapper_M1_M2 :
    findOffset (descM 2 true false false false) 1 1 3 = .ok 14336 ∧
      findOffset (descM 2 false false false false) 1 1 3 = .ok 166400 := by decide
theorem test_mapper_M3_M4 :
    findOffset (descM 2 false true false false) 0 0 1 = .ok 161280 ∧
      findOffset (descM 2 true true false false) 1 1 1 = .ok 9216 := by decide
theorem test_mapper_M5_M6 :
    findOffset (descM 2 false false true false) 0 0 1 = .ok 161280 ∧
      findOffset (descM 2 true false false true) 2 1 1 = .ok 308736 := by decide
theorem test_mapper_M7_M9 :
    findOffset (descM 0 true false false false) 0 1 1 = .error .invalidHead ∧
      findOffset (descM 1 true false false false) 0 0 0 = .error .sectorBelowFirst := by decide
theorem test_mapper_M8 : findOffset (descM 1 false false false false) 0 1 1 = .ok 161280 := by decide
theorem test_mapper_M10 :
    findOffset { descM 2 true false false false with tracks := 80, sectorsPerTrack := 9, sectorSize := 512 } 79 1 9
      = .ok 736768 := by decide
theorem test_mapper_M11_M12 : findOffset descE 2 0 3 = .ok 2816 ∧ findOffset descE 2 0 11 = .ok 3840 := by decide

/-! Type I: X1, X2, T1 to T13. -/

theorem test_restore_T1 :
    (after (.restore true) { start 17 with trackReg := 9 }).trackReg = 0 ∧
      ((after (.restore true) { start 17 with trackReg := 9 }).drive 0).currentTrack = 0 ∧
      reads (after (.restore true) { start 17 with trackReg := 9 }) = (some 0x24, some 0x01) := by decide
theorem test_restore_T13_hold :
    reads (after (.restore false) { start 0 with params := { params with holdTypeI := 2 } }) = (some 0x05, some 0x00) := by
  decide
theorem test_seek_T4_unreachable :
    (after (.seek false) { start 0 with dataReg := 40 }).trackReg = 0 ∧
      got .readStatus (after (.seek false) { start 0 with dataReg := 40 }) = some 0x14 := by decide
theorem test_seek_T3_last_track :
    ((after (.seek false) { start 0 with dataReg := 39 }).drive 0).currentTrack = 39 ∧
      got .readStatus (after (.seek false) { start 0 with dataReg := 39 }) = some 0x00 := by decide
theorem test_step_T7 :
    ((after (.step false) { start 5 with trackReg := 5 }).drive 0).currentTrack = 4 ∧
      (after (.step false) { start 5 with trackReg := 5 }).trackReg = 5 := by decide
theorem test_stepUpdate_T12 :
    ((after (.stepUpdate false) { start 39 with trackReg := 39, stepDirection := .inwards }).drive 0).currentTrack = 39 ∧
      (after (.stepUpdate false) { start 39 with trackReg := 39, stepDirection := .inwards }).trackReg = 39 := by decide
theorem test_stepIn_T8 :
    ((after (.stepIn false) { start 5 with trackReg := 5 }).drive 0).currentTrack = 6 ∧
      (after (.stepIn false) { start 5 with trackReg := 5 }).trackReg = 5 := by decide
theorem test_stepInUpdate_T9 : (after (.stepInUpdate false) { start 5 with trackReg := 5 }).trackReg = 6 := by decide
theorem test_stepOut_T11 : reads (after (.stepOut false) (start 0)) = (some 0x04, some 0x01) := by decide
theorem test_stepOutUpdate_T10 :
    ((after (.stepOutUpdate false) { start 6 with trackReg := 9 }).drive 0).currentTrack = 5 ∧
      (after (.stepOutUpdate false) { start 6 with trackReg := 9 }).trackReg = 5 := by decide

/-! Type II: S1 to S15, X4, X7. -/

theorem test_readSector_S1 :
    reads (after (.readSector false) ready) = (some 0x00, some 0x80) ∧
      (after (.readSector false) ready).dataReg = 0x00 ∧ (after (.readSector false) ready).buf[1]? = some 0x07 := by decide
theorem test_readSector_S5_host_error :
    reads (after (.readSector false) { ready with ioDraws := [true] }) = (some 0x98, some 0x03) := by decide
theorem test_readSectorMulti_S8 :
    reads (after (.readSectorMulti false) (start 0)) = (some 0x10, some 0x01) ∧
      (after (.readSectorMulti false) (start 0)).log = [.unsupportedCommand] := by decide
theorem test_writeSector_X4 : reads (after (.writeSector false) protectedDrive) = (some 0x40, some 0x01) := by decide
theorem test_writeSector_armed :
    reads (after (.writeSector false) ready) = (some 0x01, some 0x80) ∧
      (after (.writeSector false) ready).used = 128 := by decide
theorem test_writeSectorMulti_S9 : got .readStatus (after (.writeSectorMulti false) (start 0)) = some 0x10 := by decide

/-! Type III: A1 to A9. -/

theorem test_readAddress_A1 :
    (after (.readAddress true) (start 2)).buf.take 4 = [0x02, 0x01, 0x01, 0x00] ∧
      (after (.readAddress true) (start 2)).sectorReg = 1 ∧ (after (.readAddress true) (start 2)).used = 6 := by decide
theorem test_readAddress_A4_wraps :
    (after (.readAddress false) { start 2 with raCounter := 10 }).raCounter = 0 ∧
      (after (.readAddress false) { start 2 with raCounter := 9 }).sectorReg = 0x0A := by decide
theorem test_readTrack_A7 : reads (after (.readTrack false) (start 2)) = (some 0x00, some 0x00) := by decide
theorem test_writeTrack_A9 : got .readStatus (after (.writeTrack false) protectedDrive) = some 0x40 := by decide
theorem test_writeTrack_A8_last_byte :
    reads (after (.writeData 0) lastTrackByte) = (some 0x00, some 0x01) ∧
      (after (.writeData 0) lastTrackByte).files = image := by decide

/-! Type IV and the data port: F1, F2, E1, S11, S14, S15. -/

theorem test_forceInterrupt_F1 : reads (after .forceInterrupt (start 0)) = (some 0x05, some 0x00) := by decide
theorem test_forceInterrupt_F2 :
    reads (after .forceInterrupt lastByte) = (some 0x01, some 0x00) ∧ (after .forceInterrupt lastByte).xfer = .idle := by
  decide
theorem test_readData_E1_first :
    got .readData reading = some 0x11 ∧ (after .readData reading).dataReg = 0x22 := by decide
theorem test_readData_E1_last :
    got .readData { reading with position := 2, dataReg := 0x22 } = some 0x22 ∧
      (after .readData { reading with position := 2, dataReg := 0x22 }).flags.interruptRequest = true ∧
      (after .readData { reading with position := 2, dataReg := 0x22 }).xfer = .idle := by decide
theorem test_writeData_S11 :
    (after (.writeData 0x55) armed).position = 0 ∧ (after (.writeData 0x55) armed).dataReg = 0x55 ∧
      (after (.writeData 0x55) armed).log = [.unexpectedDataByte] := by decide
theorem test_writeData_S15 :
    got .readStatus (after (.writeData 0) { lastByte with trackReg := 7 }) = some 0x10 ∧
      (after (.writeData 0) { lastByte with trackReg := 7 }).files = image := by decide

/-! Ports: P-1 to P-8. -/

theorem test_readStatus_P1 : got .readStatus (start 0) = some 0x04 := by decide
theorem test_readStatus_P2_index :
    (after .readStatus { start 0 with indexCountdown := 1 }).indexState = true ∧
      got .readStatus { start 0 with indexState := true } = some 0x06 := by decide
theorem test_readDrivePort_P3 :
    got .readDrivePort { start 0 with readyDelay := 3 } = some 0x02 ∧
      got .readStatus { start 0 with readyDelay := 2 } = some 0x84 := by decide
theorem test_readTrackRegister_P7 :
    got .readTrackRegister { start 0 with trackReg := 3 } = some 0x03 ∧
      got .readTrackRegister { start 0 with trackReg := 3, activeDrive := none } = some 0xFF := by decide
theorem test_readSectorRegister :
    got .readSectorRegister { start 0 with sectorReg := 4 } = some 0x04 ∧
      got .readSectorRegister { start 0 with sectorReg := 4, activeDrive := some 1 } = some 0xFF := by decide
theorem test_writeTrackRegister_P8 : (after (.writeTrackRegister 9) armed).trackReg = 9 := by decide
theorem test_writeSectorRegister : (after (.writeSectorRegister 3) (start 0)).sectorReg = 3 := by decide
theorem test_writeDriveSelect_P4_P5 :
    (after (.writeDriveSelect 0x06) (start 0)).activeDrive = some 1 ∧
      (after (.writeDriveSelect 0xF0) (start 0)).activeDrive = none := by decide
theorem test_readUnmapped_P6 : got .readUnmapped (start 0) = some 0xFF := by decide
theorem test_writeUnmapped_P6 : (after (.writeUnmapped 1) (start 0)).dataReg = 0 := by decide
theorem test_writeCommand_X5 :
    (after (.writeCommand 0x08) armed).log = [.droppedWhileBusy] ∧
      reads (after (.writeCommand 0x08) armed) = (some 0x01, some 0x80) := by decide

/-! The first step after reset runs a placed instruction. -/

theorem test_first_step : step (State.reset.withFetchWord 8 0x98) = exec (.readSectorMulti false) State.reset := rfl

/-! Witnesses: for each statement with hypotheses, values that meet all of them together, for each clause. -/

/-- Drive E in slot 0, its head at track 2, meets the clauses about drives. -/
theorem start_good : ∀ a : Fin 4, ((start 2).drive a).Good :=
  fun a => ⟨by revert a; decide, by revert a; decide⟩

theorem image_wf : filesWf image := by decide

theorem start_inv : (start 2).Inv where
  drives := start_good
  readyDelay := by decide
  busyDelay := by decide
  byteDelay := by decide
  indexCountdown := by decide
  buffer := ⟨List.length_replicate, by decide, by decide⟩
  idle := fun _ => by decide
  reading := fun h => by simp [start, State.reset] at h
  writing := fun h => by simp [start, State.reset] at h
  busy := fun h => by simp [start, State.reset, Indicators.clear] at h
  dataLost := rfl
  raCounter := by decide
  files := image_wf

theorem lastByte_inv : lastByte.Inv where
  drives := start_good
  readyDelay := by decide
  busyDelay := by decide
  byteDelay := by decide
  indexCountdown := by decide
  buffer := ⟨List.length_replicate, by decide, by decide⟩
  idle := fun h => by simp [lastByte] at h
  reading := fun h => by simp [lastByte] at h
  writing := fun _ => by decide
  busy := fun _ => .inl rfl
  dataLost := rfl
  raCounter := by decide
  files := image_wf

theorem witness_DecodeInvertsEncode : (Instr.writeData 0xFF).wellFormed = true := by decide

theorem witness_CommandBytesIgnoreUnusedBits :
    (topNibble 0x78#8 = topNibble 0x7F#8 ∧ 0x78#8 &&& ~~~ignoredBits 0x78#8 = 0x7F#8 &&& ~~~ignoredBits 0x7F#8) ∧
    (topNibble 0xD0#8 = topNibble 0xDF#8 ∧ 0xD0#8 &&& ~~~ignoredBits 0xD0#8 = 0xDF#8 &&& ~~~ignoredBits 0xDF#8) ∧
    (topNibble 0xF2#8 = topNibble 0xFF#8 ∧ 0xF2#8 &&& ~~~ignoredBits 0xF2#8 = 0xFF#8 &&& ~~~ignoredBits 0xFF#8) := by
  decide

theorem witness_DriveSelectTakesTheLowestBit :
    0xF0#8 &&& 0x0F#8 = 0#8 ∧ (0x0F#8).getLsbD (0 : Fin 4).val = true ∧
    ((0x08#8).getLsbD (3 : Fin 4).val = true ∧ ∀ j : Nat, j < (3 : Fin 4).val → (0x08#8).getLsbD j = false) := by
  refine ⟨by decide, by decide, by decide, fun j hj => ?_⟩
  have : ∀ k : Fin 3, (0x08#8).getLsbD k.val = false := by decide
  exact this ⟨j, hj⟩

theorem witness_StepRunsTheDecodedAccess :
    ((start 2).withAccess (.command 0x08)).pending = .guest (.command 0x08) :: [] := by decide

theorem witness_PlacedTableWordRunsNext :
    decodeTableWord 8 0x10 = some (.seek false) ∧ decodeTableWord 4 0b1111 = some (.writeUnmapped 0) := by decide

theorem witness_NoEventNoChange : (start 2).pending = [] := by decide

/-- A mount is refused without a track and taken with one. -/
theorem witness_MountReplacesOneSlot :
    ({ start 2 with pending := [.mount 0 { descE with tracks := 1 }] }.pending = .mount 0 { descE with tracks := 1 } :: [] ∧
      { descE with tracks := 1 }.wellFormed = true) ∧
    ({ start 2 with pending := [.mount 3 descE] }.pending = .mount 3 descE :: [] ∧ descE.wellFormed = true) ∧
    ({ start 2 with pending := [.mount 0 { descE with tracks := 0 }] }.pending = .mount 0 { descE with tracks := 0 } :: [] ∧
      { descE with tracks := 0 }.wellFormed = false) ∧
    { start 2 with pending := [.unmount 0] }.pending = .unmount 0 :: [] := by decide

theorem witness_HostFileReplacesOneFile :
    { start 2 with pending := [.hostFile "a.img" (some [1, 0])] }.pending = .hostFile "a.img" (some [1, 0]) :: [] ∧
    { start 2 with pending := [.hostFile "a.img" none] }.pending = .hostFile "a.img" none :: [] := by decide

theorem witness_HardResetRestoresResetValues :
    { lastByte with pending := [.hardReset] }.pending = .hardReset :: [] := by decide

theorem witness_EveryStepKeepsTheInvariant : lastByte.Inv ∧ step lastByte = .next lastByte := ⟨lastByte_inv, rfl⟩

theorem witness_CommandWhileBusyOnlyLogs :
    issues (.writeCommand 0x08) (.restore true) ∧ Command.restore true ≠ .forceInterrupt ∧ lastByte.flags.busy = true :=
  ⟨.inr ⟨0x08, rfl, by decide⟩, by decide, rfl⟩

theorem witness_WriteCommandRunsTheDecodedCommand :
    ready.flags.busy = false ∧ commandType (decodeCommand 0x7F) = .typeI ∧ commandType (decodeCommand 0xD0) = .typeIV ∧
    commandType (decodeCommand 0x82) = .typeII ∧ commandType (decodeCommand 0xF0) = .typeIII := by decide

theorem witness_RestoreGoesToTrackZero :
    (ready.flags.busy = false ∧ ready.activeDrive = some 0) ∧
    ({ ready with activeDrive := none }.flags.busy = false ∧ { ready with activeDrive := none }.activeDrive = none) := by
  decide

/-- Track 39 is reached, track 40 is not. -/
theorem witness_SeekGoesToTheDataRegister :
    (ready.flags.busy = false ∧ ready.activeDrive = some 0) ∧
    ({ ready with dataReg := 40 }.dataReg.toNat : Int) > (ready.drive 0).desc.tracks - 1 ∧
    ({ ready with dataReg := 39 }.dataReg.toNat : Int) ≤ (ready.drive 0).desc.tracks - 1 ∧
    ({ ready with activeDrive := none }.flags.busy = false ∧ { ready with activeDrive := none }.activeDrive = none) := by
  decide

theorem witness_StepFormsMoveTheHeadByOne : ready.flags.busy = false := by decide

/-- Sector 3 of track 2 lies at offset 2816 (M11). -/
theorem witness_ReadSectorStartsTheStream :
    ready.flags.busy = false ∧ ready.activeDrive = some 0 ∧ (ready.drive 0).desc.imagePath = some "a.img" ∧
    ready.readyDelay ≤ 1 ∧ ready.trackReg.toNat = (ready.drive 0).currentTrack ∧
    findOffset (ready.drive 0).desc ready.trackReg.toNat false.toNat ready.sectorReg.toNat = .ok 2816 ∧
    filesFind ready.files "a.img" = some { size := 51200, cells := [(2817, 7)] } ∧ (0 : Int) ≤ 2816 ∧
    (2816 : Int) + (ready.drive 0).desc.sectorSize ≤ (51200 : Nat) ∧ (ready.drive 0).desc.sectorSize ≠ 0 ∧
    ready.ioFails = false := by decide

/-- The three not-ready cases, a track mismatch, sector 0, and a failing access. -/
theorem witness_ReadSectorFaultsInOrder :
    { ready with activeDrive := none }.activeDrive = none ∧
    ({ ready with activeDrive := some 3 }.activeDrive = some 3 ∧ (ready.drive 3).desc.imagePath = none) ∧
    { ready with readyDelay := 2 }.readyDelay > 1 ∧
    (ready.flags.busy = false ∧ ready.activeDrive = some 0 ∧ (ready.drive 0).desc.imagePath = some "a.img" ∧
      ready.readyDelay ≤ 1) ∧
    { ready with trackReg := 3 }.trackReg.toNat ≠ (ready.drive 0).currentTrack ∧
    ready.trackReg.toNat = (ready.drive 0).currentTrack ∧
    findOffset (ready.drive 0).desc ready.trackReg.toNat false.toNat { ready with sectorReg := 0 }.sectorReg.toNat
      = .error .sectorBelowFirst ∧
    findOffset (ready.drive 0).desc ready.trackReg.toNat false.toNat ready.sectorReg.toNat = .ok 2816 ∧
    { ready with ioDraws := [true] }.memRead "a.img" 2816 128 = none := by decide

theorem witness_MultiSectorIsUnsupported : ready.flags.busy = false := by decide

theorem witness_WriteCommandsArmTheTransfer :
    ready.flags.busy = false ∧ ready.activeDrive = some 0 ∧ (ready.drive 0).desc.imagePath = some "a.img" ∧
    ready.readyDelay ≤ 1 ∧ (ready.drive 0).desc.writeProtect = false := by decide

theorem witness_WriteCommandFaults :
    (protectedDrive.flags.busy = false ∧ protectedDrive.activeDrive = some 0 ∧
      (protectedDrive.drive 0).desc.imagePath = some "a.img" ∧ protectedDrive.readyDelay ≤ 1 ∧
      (protectedDrive.drive 0).desc.writeProtect = true) ∧
    { protectedDrive with activeDrive := none }.activeDrive = none ∧
    { protectedDrive with readyDelay := 2 }.readyDelay > 1 ∧
    ({ protectedDrive with activeDrive := some 1 }.activeDrive = some 1 ∧
      (protectedDrive.drive 1).desc.imagePath = none) := by decide

theorem witness_ReadAddressStreamsTheRecord :
    ready.flags.busy = false ∧ ready.activeDrive = some 0 ∧ (ready.drive 0).desc.imagePath = some "a.img" ∧
    ready.readyDelay ≤ 1 ∧
    ((ready.drive 0).desc.sectorSize, 0#8) ∈ [(128, 0#8), (256, 1#8), (512, 2#8), (1024, 3#8)] := by decide

/-- The counter at its last value. -/
theorem witness_ReadAddressCyclesTheCounter :
    ready.flags.busy = false ∧ ready.activeDrive = some 0 ∧ (ready.drive 0).desc.imagePath = some "a.img" ∧
    ready.readyDelay ≤ 1 ∧ { ready with raCounter := 10 }.raCounter ≤ (ready.drive 0).desc.sectorsPerTrack := by decide

theorem witness_ReadTrackOnlyEnds :
    (ready.flags.busy = false ∧ ready.activeDrive = some 0 ∧ (ready.drive 0).desc.imagePath = some "a.img" ∧
      ready.readyDelay ≤ 1) ∧
    { ready with readyDelay := 2 }.readyDelay > 1 ∧ { ready with activeDrive := none }.activeDrive = none := by decide

theorem witness_ForceInterruptEndsAndHolds : lastByte.flags.busy = true ∧ ready.flags.busy = false := by decide

theorem witness_StatusByteTypeI :
    ready.lastType = .typeI ∧ { ready with lastType := .typeIV }.lastType = .typeIV := by decide

theorem witness_StatusByteTypeII : lastByte.lastType = .typeII ∧ lastTrackByte.lastType = .typeIII := by decide

theorem witness_StatusReadTicksAllCounters : 1 ≤ { ready with indexCountdown := 1 }.indexCountdown := by decide

theorem witness_AddressRegisterReads :
    (ready.params.nrAddrFf = true ∧ { ready with readyDelay := 2 }.readyDelay > 1) ∧
    { ready with activeDrive := none }.activeDrive = none ∧
    (ready.activeDrive = some 0 ∧ (ready.drive 0).desc.imagePath = some "a.img" ∧ ready.readyDelay ≤ 1) ∧
    { params with nrAddrFf := false }.nrAddrFf = false := by decide

theorem witness_DataReadMovesTheStream :
    ready.xfer ≠ .readOut ∧ (reading.xfer = .readOut ∧ reading.position < reading.used) ∧
    ({ reading with position := 2 }.xfer = .readOut ∧ { reading with position := 2 }.used ≤ { reading with position := 2 }.position) := by
  decide

theorem witness_ReadStreamDeliversTheBuffer :
    reading.xfer = .readOut ∧ reading.position = 1 ∧ 1 ≤ reading.used ∧ reading.used ≤ reading.buf.length ∧
    reading.dataReg = reading.buf.getD 0 0 := by decide

theorem witness_DataWriteBeforeTheLastByte :
    ready.xfer = .idle ∧ reading.xfer = .readOut ∧ (armed.xfer = .writeSectorIn ∧ armed.flags.dataRequest = false) ∧
    ({ lastTrackByte with position := 126 }.xfer = .writeTrackIn ∧ lastTrackByte.flags.dataRequest = true ∧
      { lastTrackByte with position := 126 }.position + 1 ≠ lastTrackByte.used) := by decide

/-- 127 bytes, the most before the last one. -/
theorem witness_PacedBytesFillTheBuffer :
    armed.xfer = .writeSectorIn ∧ armed.flags.dataRequest = false ∧ armed.byteDelay = armed.params.byteDelay.polls ∧
    armed.position = 0 ∧ (List.replicate 127 (0x5A : Byte)).length < armed.used ∧ armed.used ≤ armed.buf.length := by
  rw [List.length_replicate, show armed.buf.length = 1024 from List.length_replicate]; decide

theorem witness_CommitWritesTheSector :
    lastByte.Inv ∧ lastByte.xfer = .writeSectorIn ∧ lastByte.flags.dataRequest = true ∧
    lastByte.position + 1 = lastByte.used ∧
    lastByte.activeMedia = some ({ desc := descE, currentTrack := 2 }, "a.img") ∧ descE.writeProtect = false ∧
    lastByte.trackReg.toNat = 2 ∧
    findOffset descE lastByte.trackReg.toNat lastByte.side.toNat lastByte.sectorReg.toNat = .ok 2816 ∧
    lastByte.memWriteOk "a.img" 2816 lastByte.used = true :=
  ⟨lastByte_inv, by decide, by decide, by decide, by decide, by decide, by decide, by decide, by decide⟩

/-- No drive, an unmounted drive, write protect, a track mismatch, sector 0, and a failing access. -/
theorem witness_CommitFaultsInOrder :
    (lastByte.Inv ∧ lastByte.xfer = .writeSectorIn ∧ lastByte.flags.dataRequest = true ∧
      lastByte.position + 1 = lastByte.used) ∧
    { lastByte with activeDrive := none }.activeDrive = none ∧
    ({ lastByte with activeDrive := some 3 }.activeDrive = some 3 ∧ (lastByte.drive 3).desc.imagePath = none) ∧
    (lastByte.activeDrive = some 0 ∧ (lastByte.drive 0).desc.imagePath = some "a.img") ∧
    (protectedDrive.drive 0).desc.writeProtect = true ∧ (lastByte.drive 0).desc.writeProtect = false ∧
    { lastByte with trackReg := 7 }.trackReg.toNat ≠ (lastByte.drive 0).currentTrack ∧
    lastByte.trackReg.toNat = (lastByte.drive 0).currentTrack ∧
    findOffset (lastByte.drive 0).desc lastByte.trackReg.toNat lastByte.side.toNat 0 = .error .sectorBelowFirst ∧
    findOffset (lastByte.drive 0).desc lastByte.trackReg.toNat lastByte.side.toNat lastByte.sectorReg.toNat = .ok 2816 ∧
    { lastByte with ioDraws := [true] }.memWriteOk "a.img" 2816 lastByte.used = false :=
  ⟨⟨lastByte_inv, by decide, by decide, by decide⟩, by decide, by decide, by decide, by decide, by decide, by decide,
    by decide, by decide, by decide, by decide⟩

theorem witness_WriteTrackCommitTouchesNoImage :
    lastTrackByte.xfer = .writeTrackIn ∧ lastTrackByte.flags.dataRequest = true ∧
    lastTrackByte.position + 1 = lastTrackByte.used := by decide

theorem witness_DataWriteStoresOnlyAtItsTarget :
    lastByte.Inv ∧ (∃ t, exec (.writeData 1) lastByte = .next t) ∧
    lastByte.commitTarget = some ("a.img", 2816, 128) ∧ lastTrackByte.commitTarget = none :=
  ⟨lastByte_inv, ⟨_, rfl⟩, by decide, by decide⟩

theorem witness_DataRequestComesOnTheNthPoll :
    (∀ i ∈ [Instr.readStatus, .readDrivePort], isPoll i = true) ∧ armed.xfer ≠ .idle ∧
    armed.flags.dataRequest = false ∧ 1 ≤ armed.byteDelay := by decide

theorem witness_HoldEndsOnTheNthStatusRead :
    (∀ i ∈ [Instr.readStatus, .readDrivePort], isPoll i = true) ∧ 1 ≤ { ready with busyDelay := 1 }.busyDelay := by decide

theorem witness_ReadyOnTheNthPoll :
    (∀ i ∈ [Instr.readStatus, .readDrivePort], isPoll i = true) ∧ 1 ≤ { ready with readyDelay := 3 }.readyDelay := by
  decide

theorem witness_IndexTogglesEveryPeriod :
    (∀ i ∈ [Instr.readStatus, .readDrivePort], isPoll i = true) ∧
    ready.indexCountdown = ready.params.indexPeriod.polls := by decide

theorem witness_OnlyWriteCommandsLeaveTheBlockBusy :
    ready.flags.busy = false ∧ exec (.writeTrack true) ready = .next (after (.writeTrack true) ready) ∧
    (after (.writeTrack true) ready).flags.busy = true := ⟨by decide, rfl, by decide⟩

theorem witness_InterruptClearedOnlyByAcceptedCommands :
    { ready with flags := { Indicators.clear with interruptRequest := true } }.flags.interruptRequest = true ∧
    exec (.readSector false) { ready with flags := { Indicators.clear with interruptRequest := true } } =
      .next (after (.readSector false) { ready with flags := { Indicators.clear with interruptRequest := true } }) ∧
    (after (.readSector false) { ready with flags := { Indicators.clear with interruptRequest := true } }).flags.interruptRequest
      = false := ⟨by decide, rfl, by decide⟩

theorem witness_HeadsMoveOnlyByTypeICommands :
    exec (.stepIn false) ready = .next (after (.stepIn false) ready) ∧
    ((after (.stepIn false) ready).drive 0).currentTrack ≠ (ready.drive 0).currentTrack := ⟨rfl, by decide⟩

theorem witness_RegistersChangeOnlyByTheirWriters :
    (exec (.readAddress true) ready = .next (after (.readAddress true) ready) ∧
      (after (.readAddress true) ready).side ≠ ready.side ∧
      (after (.readAddress true) ready).raCounter ≠ ready.raCounter) ∧
    (exec (.writeDriveSelect 2) ready = .next (after (.writeDriveSelect 2) ready) ∧
      (after (.writeDriveSelect 2) ready).activeDrive ≠ ready.activeDrive) ∧
    (exec (.stepIn false) ready = .next (after (.stepIn false) ready) ∧
      (after (.stepIn false) ready).stepDirection ≠ ready.stepDirection) :=
  ⟨⟨rfl, by decide, by decide⟩, ⟨rfl, by decide⟩, rfl, by decide⟩

theorem witness_ImagesChangeOnlyByDataWrites :
    (exec (.readSector false) ready = .next (after (.readSector false) ready) ∧
      (after (.readSector false) ready).ioCount ≠ ready.ioCount) ∧
    (exec (.writeData 1) lastByte = .next (after (.writeData 1) lastByte) ∧
      (after (.writeData 1) lastByte).ioCount ≠ lastByte.ioCount) := ⟨⟨rfl, by decide⟩, rfl, by decide +kernel⟩

/-- A read stream of a 6-byte record. -/
def stream : State := { start 2 with xfer := .readOut, position := 1, used := 6, lastType := .typeIII }

theorem stream_inv : stream.Inv where
  drives := start_good
  readyDelay := by decide
  busyDelay := by decide
  byteDelay := by decide
  indexCountdown := by decide
  buffer := ⟨List.length_replicate, by decide, by decide⟩
  idle := fun h => by simp [stream] at h
  reading := fun _ => by decide
  writing := fun h => by simp [stream] at h
  busy := fun h => by simp [stream, start, State.reset, Indicators.clear] at h
  dataLost := rfl
  raCounter := by decide
  files := image_wf

/-- Two read streams that differ in every byte behind the six of the record. -/
theorem witness_DeadBufferBytesAreUnobservable :
    stream.Inv ∧ SameButDeadBuffer stream { stream with buf := List.replicate 6 0 ++ List.replicate 1018 1 } ∧
    (∃ t, exec .readData stream = .next t) ∧
    ∃ t, exec .readData { stream with buf := List.replicate 6 0 ++ List.replicate 1018 1 } = .next t := by
  have hb : stream.buf = List.replicate 6 0 ++ List.replicate 1018 0 := by
    rw [List.replicate_append_replicate]; rfl
  refine ⟨stream_inv, ⟨rfl, ?_, fun _ i hi => ?_, fun h => by simp [stream] at h⟩, ⟨_, rfl⟩, ⟨_, rfl⟩⟩
  · rw [hb]; rw [List.length_append, List.length_append, List.length_replicate, List.length_replicate, List.length_replicate]
  · have hi : i < (List.replicate 6 (0 : Byte)).length := by rw [List.length_replicate]; exact hi
    rw [hb, List.getElem?_append_left hi, List.getElem?_append_left hi]

/-- The first clause at `heads = 0`, the second at the sector below the first, the others at the first sector. -/
theorem witness_MapperFollowsTheFormula :
    ((1 : Int) = (if (descM 0 true false false false).sidesSwapped then 1 - 1 else 1) ∧
      (1 : Int) > (descM 0 true false false false).heads) ∧
    ((1 : Int) = (if (descM 1 true true false false).sidesSwapped then 1 - 0 else 0) ∧
      (1 : Int) ≤ (descM 1 true true false false).heads ∧ (0 : Int) < (descM 1 true true false false).firstSectorNumber) ∧
    ((0 : Int) ≤ (descM 1 true false false false).heads ∧ ((descM 1 true false false false).firstSectorNumber : Int) ≤ 1 ∧
      (descM 1 true false false false).interleaved = true) ∧
    ((0 : Int) ≤ (descM 2 false false true false).heads ∧
      ((descM 2 false false true false).firstSectorNumber : Int) ≤ 1 ∧
      (descM 2 false false true false).interleaved = false ∧
      (35 : Int) = (if (if (0 : Int) = 0 then (descM 2 false false true false).reverseSide0
        else (descM 2 false false true false).reverseSide1) then (descM 2 false false true false).tracks - 0 else 0)) := by
  decide

theorem witness_SectorOffsetsAreNeverNegative :
    lastByte.Inv ∧ lastByte.trackReg.toNat = (lastByte.drive 0).currentTrack ∧
    findOffset (lastByte.drive 0).desc lastByte.trackReg.toNat true.toNat lastByte.sectorReg.toNat = .ok 54016 :=
  ⟨lastByte_inv, by decide, by decide⟩

/-- The last sector of drive E. -/
theorem witness_LegalSectorsLieInsideTheImage :
    descE.sidesSwapped = false ∧ descE.reverseSide0 = false ∧ descE.reverseSide1 = false ∧ LegalSector descE 39 0 10 :=
  ⟨rfl, rfl, rfl, ⟨by decide, by decide, by decide⟩⟩

theorem witness_LegalSectorsDoNotOverlap :
    LegalSector descE 2 0 3 ∧ findOffset descE 2 0 3 = .ok 2816 ∧ (2816 : Int) < 2816 + descE.sectorSize :=
  ⟨⟨by decide, by decide, by decide⟩, by decide, by decide⟩

theorem witness_CommittedBytesReadBack :
    filesWf ready.files ∧ ready.memWriteOk "a.img" 51199 [(0xAA : Byte)].length = true ∧
    { ready with files := (ready.memWritten "a.img" 51199 [0xAA]).files }.files =
      (ready.memWritten "a.img" 51199 [0xAA]).files ∧
    { ready with files := (ready.memWritten "a.img" 51199 [0xAA]).files }.ioFails = false :=
  ⟨image_wf, by decide, rfl, by decide⟩

/-- The last byte of `lastByte`, with a second settled draw for the read that follows. -/
theorem witness_WrittenSectorIsReadBack :
    { lastByte with ioDraws := [false, false] }.memWriteOk "a.img" 2816 128 = true ∧ lastByte.used = descE.sectorSize ∧
    (∃ t, exec (.writeData 1) { lastByte with ioDraws := [false, false] } = .next t ∧ t.ioFails = false ∧
      ∃ u, exec (.readSector lastByte.side) t = .next u) :=
  ⟨by decide, by decide, ⟨after (.writeData 1) { lastByte with ioDraws := [false, false] }, rfl, by decide +kernel, ⟨_, rfl⟩⟩⟩

end Sys2Proof.Tests
end

section
/-! What `fetch` and `step` do in each shape of the pending list, what placing an access does to it, and the
statements about the step's input (00_scope.md R2, 20_memory.md R62, 30_encoding.md R90, R99). -/

namespace Sys2Proof.Machine

theorem fetch_of_pending_nil {s : State} (h : s.pending = []) : fetch s = none := by
  simp only [fetch, h]

theorem fetch_of_pending_cons {s : State} {e : Event} {rest : List Event} (h : s.pending = e :: rest) :
    fetch s = some (e, { s with pending := rest }) := by
  simp only [fetch, h]

theorem step_of_fetch_none {s : State} (h : fetch s = none) : step s = .next s := by
  simp only [step, h]

theorem step_of_fetch_guest {s t : State} {w : FetchWord} (h : fetch s = some (.guest w, t)) :
    step s = exec (decode w) t := by
  simp only [step, h]

theorem step_of_pending_guest {s : State} {w : FetchWord} {rest : List Event} (h : s.pending = .guest w :: rest) :
    step s = exec (decode w) { s with pending := rest } :=
  step_of_fetch_guest (fetch_of_pending_cons h)

@[simp] theorem State.withAccess_pending (s : State) (w : FetchWord) :
    (s.withAccess w).pending = .guest w :: s.pending := rfl

/-- Taking a placed access off again gives the whole state back, not only its pending events. -/
theorem State.withAccess_restored (s : State) (w : FetchWord) :
    { s.withAccess w with pending := s.pending } = s := rfl

theorem step_withAccess (s : State) (w : FetchWord) : step (s.withAccess w) = exec (decode w) s := by
  rw [step_of_pending_guest (s.withAccess_pending w), State.withAccess_restored]

theorem decodeTableWord_eq_some_iff {nbits w : Nat} {i : Instr} :
    decodeTableWord nbits w = some i ↔ ∃ f, tableWord nbits w = .ok f ∧ decode f = i := by
  cases h : tableWord nbits w with
  | ok f => simp [decodeTableWord, h]
  | error e => simp [decodeTableWord, h]

theorem State.withFetchWord_of_tableWord_ok {nbits w : Nat} {f : FetchWord} (h : tableWord nbits w = .ok f)
    (s : State) : s.withFetchWord nbits w = s.withAccess f := by
  simp only [State.withFetchWord, State.withTableWord, h]

/-- Settles O6: `fetch` takes the access at the front, and `step` runs what it decodes to. -/
theorem stepRunsTheDecodedAccess : Obligations.StepRunsTheDecodedAccess :=
  fun _ _ _ h => step_of_pending_guest h

/-- Settles O7: a number that decodes is the number of an encoded instruction, which is placed as one access. -/
theorem placedTableWordRunsNext : Obligations.PlacedTableWordRunsNext := by
  intro s nbits w i h
  obtain ⟨f, hword, rfl⟩ := decodeTableWord_eq_some_iff.mp h
  rw [State.withFetchWord_of_tableWord_ok hword]
  exact step_withAccess s f

/-- Settles O8: with nothing pending, `fetch` finds no event. -/
theorem noEventNoChange : Obligations.NoEventNoChange :=
  fun _ h => step_of_fetch_none (fetch_of_pending_nil h)

end Sys2Proof.Machine
end

section
/-! What an instruction does, as one of the few shared operations: the four bodies of the eight Type I commands, the
bodies of the Type II and III commands, ForceInterrupt, and the port accesses. Proofs about every instruction split
along these instead of along the opcode table's rows. -/

namespace Sys2Proof.Machine

/-- The bodies of the Type I commands (41_type1_commands.md R132 to R139). -/
inductive TypeIBody : (State → State) → Prop where
  | restore : TypeIBody State.restoreBody
  | seek : TypeIBody State.seekBody
  | step (update : Bool) : TypeIBody (fun t => t.stepMove update)
  | stepFacing (dir : StepDirection) (update : Bool) : TypeIBody (fun t => (t.facing dir).stepMove update)

/-- The bodies of the Type II and Type III commands (42_type2_commands.md, 43_type3_commands.md). -/
inductive DataBody : Command → (State → State) → Prop where
  | readSector (b : Bool) : DataBody (.readSector b) State.readSectorBody
  | readSectorMulti (b : Bool) : DataBody (.readSectorMulti b) State.unsupportedBody
  | writeSector (b : Bool) : DataBody (.writeSector b) (fun t => t.armWriteBody .writeSectorIn)
  | writeSectorMulti (b : Bool) : DataBody (.writeSectorMulti b) State.unsupportedBody
  | readAddress (b : Bool) : DataBody (.readAddress b) State.readAddressBody
  | readTrack (b : Bool) : DataBody (.readTrack b) State.readTrackBody
  | writeTrack (b : Bool) : DataBody (.writeTrack b) (fun t => t.armWriteBody .writeTrackIn)

theorem DataBody.commandType_eq {k : Command} {body : State → State} (h : DataBody k body) :
    commandType k = .typeII ∨ commandType k = .typeIII := by
  cases h <;> simp [commandType]

/-- What an instruction does to the state, by its kind; `exists_meaning` ties it to `exec`. -/
inductive Meaning : Instr → (State → State) → Prop where
  | typeI {i : Instr} {k : Command} {body : State → State} (load : Bool) (issued : issues i k)
      (isTypeI : commandType k = .typeI) (isBody : TypeIBody body) : Meaning i (fun s => s.typeI load body)
  | data {i : Instr} {k : Command} {body : State → State} (side : Bool) (issued : issues i k)
      (isBody : DataBody k body) : Meaning i (fun s => s.command (commandType k) (some side) body)
  | forceInterrupt {i : Instr} (issued : issues i .forceInterrupt) : Meaning i State.forceInterrupt
  | readStatus : Meaning .readStatus (fun s => s.tickByte.statusTicks.returning s.tickByte.statusByte)
  | readDrivePort : Meaning .readDrivePort (fun s => s.tickByte.tickReady.returning s.tickByte.drivePortByte)
  | readTrackRegister : Meaning .readTrackRegister (fun s => s.returning (s.addressByte s.trackReg))
  | readSectorRegister : Meaning .readSectorRegister (fun s => s.returning (s.addressByte s.sectorReg))
  | readUnmapped : Meaning .readUnmapped (fun s => s.returning 0xFF#8)
  | readData : Meaning .readData (fun s => s.streamNext.returning s.dataReg)
  | writeTrackRegister (v : Byte) : Meaning (.writeTrackRegister v) (fun s => { s with trackReg := v })
  | writeSectorRegister (v : Byte) : Meaning (.writeSectorRegister v) (fun s => { s with sectorReg := v })
  | writeData (v : Byte) : Meaning (.writeData v) (fun s => s.putData v)
  | writeDriveSelect (v : Byte) : Meaning (.writeDriveSelect v) (fun s => { s with activeDrive := decodeSelect v })
  | writeUnmapped (v : Byte) : Meaning (.writeUnmapped v) id

theorem issues_writeCommand (c : Byte) : issues (.writeCommand c) (decodeCommand c) := .inr ⟨c, rfl, rfl⟩

theorem exec_writeCommand_toInstr (c : Byte) (s : State) :
    exec (.writeCommand c) s = exec (decodeCommand c).toInstr s := by
  show execWriteCommand c s = _
  unfold execWriteCommand
  cases decodeCommand c <;> rfl

/-- The meaning of a command, for every instruction that issues it. -/
theorem exists_meaning_command {i : Instr} (k : Command) (hi : issues i k) :
    ∃ f, Meaning i f ∧ ∀ s, exec k.toInstr s = .next (f s) := by
  cases k with
  | restore h => exact ⟨_, .typeI h hi rfl .restore, fun _ => rfl⟩
  | seek h => exact ⟨_, .typeI h hi rfl .seek, fun _ => rfl⟩
  | step h => exact ⟨_, .typeI h hi rfl (.step false), fun _ => rfl⟩
  | stepUpdate h => exact ⟨_, .typeI h hi rfl (.step true), fun _ => rfl⟩
  | stepIn h => exact ⟨_, .typeI h hi rfl (.stepFacing .inwards false), fun _ => rfl⟩
  | stepInUpdate h => exact ⟨_, .typeI h hi rfl (.stepFacing .inwards true), fun _ => rfl⟩
  | stepOut h => exact ⟨_, .typeI h hi rfl (.stepFacing .outwards false), fun _ => rfl⟩
  | stepOutUpdate h => exact ⟨_, .typeI h hi rfl (.stepFacing .outwards true), fun _ => rfl⟩
  | readSector b => exact ⟨_, .data b hi (.readSector b), fun _ => rfl⟩
  | readSectorMulti b => exact ⟨_, .data b hi (.readSectorMulti b), fun _ => rfl⟩
  | writeSector b => exact ⟨_, .data b hi (.writeSector b), fun _ => rfl⟩
  | writeSectorMulti b => exact ⟨_, .data b hi (.writeSectorMulti b), fun _ => rfl⟩
  | readAddress b => exact ⟨_, .data b hi (.readAddress b), fun _ => rfl⟩
  | readTrack b => exact ⟨_, .data b hi (.readTrack b), fun _ => rfl⟩
  | writeTrack b => exact ⟨_, .data b hi (.writeTrack b), fun _ => rfl⟩
  | forceInterrupt => exact ⟨_, .forceInterrupt hi, fun _ => rfl⟩

/-- Every instruction has a meaning of one of the kinds, and `exec` answers with it in every state. -/
theorem exists_meaning (i : Instr) : ∃ f, Meaning i f ∧ ∀ s, exec i s = .next (f s) := by
  cases i with
  | restore h => exact exists_meaning_command (.restore h) (.inl rfl)
  | seek h => exact exists_meaning_command (.seek h) (.inl rfl)
  | step h => exact exists_meaning_command (.step h) (.inl rfl)
  | stepUpdate h => exact exists_meaning_command (.stepUpdate h) (.inl rfl)
  | stepIn h => exact exists_meaning_command (.stepIn h) (.inl rfl)
  | stepInUpdate h => exact exists_meaning_command (.stepInUpdate h) (.inl rfl)
  | stepOut h => exact exists_meaning_command (.stepOut h) (.inl rfl)
  | stepOutUpdate h => exact exists_meaning_command (.stepOutUpdate h) (.inl rfl)
  | readSector b => exact exists_meaning_command (.readSector b) (.inl rfl)
  | readSectorMulti b => exact exists_meaning_command (.readSectorMulti b) (.inl rfl)
  | writeSector b => exact exists_meaning_command (.writeSector b) (.inl rfl)
  | writeSectorMulti b => exact exists_meaning_command (.writeSectorMulti b) (.inl rfl)
  | readAddress b => exact exists_meaning_command (.readAddress b) (.inl rfl)
  | readTrack b => exact exists_meaning_command (.readTrack b) (.inl rfl)
  | writeTrack b => exact exists_meaning_command (.writeTrack b) (.inl rfl)
  | forceInterrupt => exact exists_meaning_command .forceInterrupt (.inl rfl)
  | writeCommand c =>
    obtain ⟨f, hf, hexec⟩ := exists_meaning_command (decodeCommand c) (issues_writeCommand c)
    exact ⟨f, hf, fun s => (exec_writeCommand_toInstr c s).trans (hexec s)⟩
  | readStatus => exact ⟨_, .readStatus, fun _ => rfl⟩
  | readTrackRegister => exact ⟨_, .readTrackRegister, fun _ => rfl⟩
  | writeTrackRegister v => exact ⟨_, .writeTrackRegister v, fun _ => rfl⟩
  | readSectorRegister => exact ⟨_, .readSectorRegister, fun _ => rfl⟩
  | writeSectorRegister v => exact ⟨_, .writeSectorRegister v, fun _ => rfl⟩
  | readData => exact ⟨_, .readData, fun _ => rfl⟩
  | writeData v => exact ⟨_, .writeData v, fun _ => rfl⟩
  | readDrivePort => exact ⟨_, .readDrivePort, fun _ => rfl⟩
  | writeDriveSelect v => exact ⟨_, .writeDriveSelect v, fun _ => rfl⟩
  | readUnmapped => exact ⟨_, .readUnmapped, fun _ => rfl⟩
  | writeUnmapped v => exact ⟨_, .writeUnmapped v, fun _ => rfl⟩

/-! Type I commands. -/

/-- What a Type I command may do to the drives: nothing, or put the active drive's head on a track, one of the drive's
own where the head stood on one (10_state.md R32). -/
def HeadMoved (s : State) (ds : Vector Drive 4) : Prop :=
  ds = s.drives ∨
    ∃ a n, s.activeDrive = some a ∧ ds = (s.setCurrentTrack a n).drives ∧
      ((s.drive a).currentTrack ≤ (s.drive a).desc.tracks - 1 → n ≤ (s.drive a).desc.tracks - 1)

theorem headMoved_self (s : State) : HeadMoved s s.drives := .inl rfl

/-- All that a Type I body can do: set the direction, `TR` and `seek_error`, and move the active drive's head. -/
theorem TypeIBody.eq {body : State → State} (h : TypeIBody body) (s : State) :
    ∃ dir tr ds e, HeadMoved s ds ∧
      body s =
        { s with stepDirection := dir, trackReg := tr, drives := ds, flags := { s.flags with seekError := e } } := by
  cases h with
  | restore =>
    unfold State.restoreBody
    split
    · exact ⟨_, _, _, _, headMoved_self s, rfl⟩
    next a ha => exact ⟨_, _, _, _, .inr ⟨a, 0, ha, rfl, fun _ => Nat.zero_le _⟩, rfl⟩
  | seek =>
    unfold State.seekBody
    split
    · exact ⟨_, _, _, _, headMoved_self s, rfl⟩
    next a ha =>
      split
      · exact ⟨_, _, _, _, headMoved_self s, rfl⟩
      · exact ⟨_, _, _, _, .inr ⟨a, s.dataReg.toNat, ha, rfl, fun _ => by omega⟩, rfl⟩
  | step update =>
    rcases s.stepMove_eq update with ⟨-, he⟩ | ⟨a, ha, he⟩
    · exact ⟨_, _, _, _, headMoved_self s, he⟩
    · exact ⟨_, _, _, _, .inr ⟨a, _, ha, rfl, steppedTrack_le _⟩, he⟩
  | stepFacing dir update =>
    rcases (s.facing dir).stepMove_eq update with ⟨-, he⟩ | ⟨a, ha, he⟩
    · exact ⟨_, _, _, _, headMoved_self s, he⟩
    · exact ⟨_, _, _, _, .inr ⟨a, _, ha, rfl, steppedTrack_le dir⟩, he⟩

/-- All that a Type I command can do: be dropped, or end at once with its body's move made. -/
theorem State.typeI_cases (s : State) (load : Bool) {body : State → State} (hb : TypeIBody body) :
    (s.flags.busy = true ∧ s.typeI load body = s.logged .droppedWhileBusy) ∨
      (s.flags.busy = false ∧ ∃ dir tr ds e, HeadMoved s ds ∧
        s.typeI load body = { typeIDone s load e with stepDirection := dir, trackReg := tr, drives := ds }) := by
  unfold State.typeI
  rcases s.command_cases .typeI none (fun t => ((body t).headLoad load).finishTypeI) with ⟨hbusy, he⟩ | ⟨hbusy, he⟩
  · exact .inl ⟨hbusy, he⟩
  · obtain ⟨dir, tr, ds, e, hmoved, hbody⟩ := hb.eq (s.prologue .typeI none)
    refine .inr ⟨hbusy, dir, tr, ds, e, hmoved, ?_⟩
    rw [he, hbody]
    unfold State.headLoad State.finishTypeI
    by_cases hload : (load && s.activeDrive.isSome) = true <;>
      by_cases hhold : s.params.holdTypeI.val = 0 <;>
      simp [typeIDone, Indicators.clear, hload, hhold]

end Sys2Proof.Machine
end

section
/-! The invariant (10_state.md R47): it splits into clauses about values that last from command to command and clauses
about the transfer in hand; one lemma for each shared operation says that it keeps them. -/

namespace Sys2Proof.Machine

/-- The clauses of the invariant that do not speak of the transfer. -/
structure State.Lasting (s : State) : Prop where
  drives : ∀ a : Fin 4, (s.drive a).Good
  readyDelay : 1 ≤ s.readyDelay ∧ isU32 s.readyDelay
  busyDelay : isU32 s.busyDelay
  byteDelay : 1 ≤ s.byteDelay ∧ isU32 s.byteDelay
  indexCountdown : 1 ≤ s.indexCountdown ∧ s.indexCountdown ≤ s.params.indexPeriod.polls
  bufLength : s.buf.length = bufMax
  dataLost : s.flags.dataLost = false
  raCounter : s.raCounter < 65536
  files : filesWf s.files

/-- The clauses of the invariant that speak of the transfer. -/
structure State.Phased (s : State) : Prop where
  window : s.position ≤ s.used ∧ s.used ≤ bufMax
  idle : s.xfer = .idle → s.flags.dataRequest = false ∧ s.position = 0 ∧ s.used = 0
  reading : s.xfer = .readOut → s.flags.busy = false ∧ 1 ≤ s.position
  writing : s.xfer = .writeSectorIn ∨ s.xfer = .writeTrackIn →
    s.flags.busy = true ∧ s.position < s.used ∧ s.readyDelay = 1
  busy : s.flags.busy = true → s.xfer = .writeSectorIn ∨ s.xfer = .writeTrackIn

theorem State.inv_iff {s : State} : s.Inv ↔ s.Lasting ∧ s.Phased :=
  ⟨fun h => ⟨{ h with bufLength := h.buffer.1 }, { h with window := h.buffer.2 }⟩,
    fun ⟨h, p⟩ => { h, p with buffer := ⟨h.bufLength, p.window⟩ }⟩

theorem State.Inv.lasting {s : State} (h : s.Inv) : s.Lasting := (State.inv_iff.mp h).1

theorem State.Inv.phased {s : State} (h : s.Inv) : s.Phased := (State.inv_iff.mp h).2

theorem State.Inv.of_parts {s : State} (h : s.Lasting) (p : s.Phased) : s.Inv := State.inv_iff.mpr ⟨h, p⟩

/-- With no transfer in hand, nothing is left of the last one. -/
theorem State.Phased.of_idle {s : State} (hx : s.xfer = .idle) (hd : s.flags.dataRequest = false)
    (hp : s.position = 0) (hu : s.used = 0) (hb : s.flags.busy = false) : s.Phased where
  window := by simp [hp, hu]
  idle _ := ⟨hd, hp, hu⟩
  reading h := by simp [hx] at h
  writing h := by simp [hx] at h
  busy h := by simp [hb] at h

/-! Values. -/

theorem Delay.polls_bounds (d : Delay) : 1 ≤ d.polls ∧ isU32 d.polls := by
  have := d.isLt
  unfold Delay.polls isU32
  omega

/-- The geometry a mount admits (60_exceptions.md R271). -/
theorem Descriptor.wellFormed_iff {d : Descriptor} :
    d.wellFormed = true ↔
      (d.sectorSize = 128 ∨ d.sectorSize = 256 ∨ d.sectorSize = 512 ∨ d.sectorSize = 1024) ∧
        1 ≤ d.sectorsPerTrack ∧ 1 ≤ d.tracks ∧ d.heads < 256 ∧ d.tracks < 65536 ∧ d.sectorsPerTrack < 65536 ∧
        d.firstSectorNumber < 65536 := by
  simp [Descriptor.wellFormed, and_assoc, or_assoc]

theorem Drive.Good.sectorSize_bounds {d : Drive} (h : d.Good) :
    1 ≤ d.desc.sectorSize ∧ d.desc.sectorSize ≤ bufMax := by
  have hsize := (Descriptor.wellFormed_iff.mp h.mountable).1
  unfold bufMax
  omega

theorem Drive.Good.sectorsPerTrack_lt {d : Drive} (h : d.Good) : d.desc.sectorsPerTrack < 65536 := by
  obtain ⟨-, -, -, -, -, hlt, -⟩ := Descriptor.wellFormed_iff.mp h.mountable
  exact hlt

/-- A good drive in one slot leaves every slot good. -/
theorem State.Lasting.set_drive {s : State} (h : s.Lasting) (a : Fin 4) {d : Drive} (hd : d.Good) :
    { s with drives := s.drives.set a d }.Lasting :=
  { h with
    drives := fun b => by
      show (s.drives.set a d)[b].Good
      rcases eq_or_ne a.val b.val with hab | hab
      · simpa [hab] using hd
      · simpa [State.drive, Vector.getElem_set, hab] using h.drives b }

/-- A Type I command keeps every head on its drive's tracks (10_state.md R32). -/
theorem State.Lasting.headMoved {s : State} {ds : Vector Drive 4} (h : s.Lasting) (hm : HeadMoved s ds) :
    { s with drives := ds }.Lasting := by
  rcases hm with rfl | ⟨a, n, -, rfl, hn⟩
  · exact h
  · have hgood := h.drives a
    exact h.set_drive a ⟨hgood.mountable, hn hgood.onTrack⟩

/-- The ready drive is a good one, and the block is ready. -/
theorem State.Lasting.of_readyMedia {s : State} (h : s.Lasting) {d : Drive} {p : String}
    (hm : s.readyMedia = some (d, p)) : d.Good ∧ s.readyDelay = 1 := by
  obtain ⟨hactive, hready⟩ := State.readyMedia_eq_some.mp hm
  obtain ⟨a, -, rfl, -⟩ := State.activeMedia_eq_some.mp hactive
  have := h.readyDelay
  exact ⟨h.drives a, by omega⟩

/-! The ways a command ends. -/

theorem State.Lasting.prologue {s : State} (h : s.Lasting) (t : CommandType) (b : Option Bool) :
    (s.prologue t b).Lasting :=
  { h with dataLost := rfl }

theorem State.Lasting.logged {s : State} (h : s.Lasting) (e : LogEvent) : (s.logged e).Lasting := { h with }

theorem CommandFault.record_dataLost (f : CommandFault) (i : Indicators) : (f.record i).dataLost = i.dataLost := by
  cases f <;> rfl

theorem State.Lasting.raise_inv {s : State} (h : s.Lasting) (f : CommandFault) : (s.raise f).Inv :=
  .of_parts { h with dataLost := (f.record_dataLost s.flags).trans h.dataLost } (.of_idle rfl rfl rfl rfl rfl)

theorem State.Lasting.commitDone_inv {s : State} (h : s.Lasting) (hd : s.flags.dataRequest = false) :
    s.commitDone.Inv :=
  .of_parts { h with } (.of_idle rfl hd rfl rfl rfl)

theorem State.Lasting.notReady_inv {s : State} (h : s.Lasting) :
    ({ s.ioTaken with readyDelay := s.params.readyDelayIoErr.polls }.raise .hostIoError).Inv :=
  State.Lasting.raise_inv (s := { s.ioTaken with readyDelay := s.params.readyDelayIoErr.polls })
    { h with readyDelay := Delay.polls_bounds _ } _

theorem State.Lasting.fillBuffer {s : State} (h : s.Lasting) {bs : List Byte} (hbs : bs.length ≤ bufMax) :
    (s.fillBuffer bs).Lasting :=
  { h with bufLength := by have := h.bufLength; simp; omega }

/-- A read stream starts with a block of bytes that fits the buffer and is not empty. -/
theorem State.Lasting.stream_inv {s : State} (h : s.Lasting) {bs : List Byte}
    (hbs : 1 ≤ bs.length ∧ bs.length ≤ bufMax) : (s.fillBuffer bs).armRead.notBusy.Inv :=
  .of_parts { h.fillBuffer hbs.2 with byteDelay := Delay.polls_bounds _ }
    { window := hbs, idle := by simp, reading := by simp, writing := by simp, busy := by simp }

/-- A write transfer starts busy, on a ready drive, and waits for at least one byte. -/
theorem State.Lasting.armWrite_inv {s : State} (h : s.Lasting) {n : Nat} {m : Xfer} (hn : 1 ≤ n ∧ n ≤ bufMax)
    (hm : m = .writeSectorIn ∨ m = .writeTrackIn) (hbusy : s.flags.busy = true) (hready : s.readyDelay = 1) :
    ({ s with used := n }.armWrite m).Inv :=
  .of_parts { h with byteDelay := Delay.polls_bounds _ }
    { window := ⟨Nat.zero_le _, hn.2⟩
      idle := by rcases hm with rfl | rfl <;> simp
      reading := by rcases hm with rfl | rfl <;> simp
      writing := fun _ => ⟨hbusy, hn.1, hready⟩
      busy := fun _ => hm }

theorem State.Lasting.armWriteBody_inv {s : State} (h : s.Lasting) {m : Xfer}
    (hm : m = .writeSectorIn ∨ m = .writeTrackIn) (hbusy : s.flags.busy = true) : (s.armWriteBody m).Inv := by
  rcases s.armWriteBody_cases m with ⟨-, he⟩ | ⟨d, p, hmedia, ⟨-, he⟩ | ⟨-, he⟩⟩
  · exact he ▸ h.raise_inv _
  · exact he ▸ h.raise_inv _
  · obtain ⟨hgood, hready⟩ := h.of_readyMedia hmedia
    exact he ▸ h.armWrite_inv hgood.sectorSize_bounds hm hbusy hready

theorem State.Lasting.readSectorBody_inv {s : State} (h : s.Lasting) : s.readSectorBody.Inv := by
  rcases s.readSectorBody_cases with ⟨f, he⟩ | he | ⟨d, p, off, bs, hmedia, -, -, hread, he⟩
  · exact he ▸ h.raise_inv _
  · exact he ▸ h.notReady_inv
  · have hlen : bs.length = d.desc.sectorSize := State.memRead_length hread
    exact he ▸ State.Lasting.stream_inv (s := s.ioTaken) { h with }
      (hlen ▸ (h.of_readyMedia hmedia).1.sectorSize_bounds)

/-- All that ReadAddress's body can do: the not-ready fault, or the record streamed after one advance of the counter. -/
theorem State.readAddressBody_cases (s : State) :
    s.readAddressBody = s.raise .notReady ∨
      ∃ d p, s.readyMedia = some (d, p) ∧
        s.readAddressBody = ((s.raAdvance d).fillBuffer ((s.raAdvance d).idRecord d)).armRead.notBusy := by
  unfold State.readAddressBody
  cases hm : s.readyMedia with
  | none => exact .inl rfl
  | some x => exact .inr ⟨x.1, x.2, rfl, rfl⟩

/-- All that ReadTrack's body can do: the not-ready fault, or `busy` cleared. -/
theorem State.readTrackBody_cases (s : State) :
    s.readTrackBody = s.raise .notReady ∨ s.readTrackBody = s.notBusy := by
  unfold State.readTrackBody
  cases s.readyMedia with
  | none => exact .inl rfl
  | some x => exact .inr rfl

@[simp] theorem State.idRecord_length (s : State) (d : Drive) : (s.idRecord d).length = 6 := rfl

theorem State.Lasting.readAddressBody_inv {s : State} (h : s.Lasting) : s.readAddressBody.Inv := by
  rcases s.readAddressBody_cases with he | ⟨d, p, hmedia, he⟩
  · exact he ▸ h.raise_inv _
  · have hcounter := (raNext_le s.raCounter d.desc.sectorsPerTrack).trans_lt
      (h.of_readyMedia hmedia).1.sectorsPerTrack_lt
    exact he ▸ State.Lasting.stream_inv (s := s.raAdvance d) { h with raCounter := hcounter }
      (by simp [bufMax])

theorem State.Lasting.readTrackBody_inv {s : State} (h : s.Lasting) (hx : s.xfer = .idle)
    (hd : s.flags.dataRequest = false) (hp : s.position = 0) (hu : s.used = 0) : s.readTrackBody.Inv := by
  rcases s.readTrackBody_cases with he | he
  · exact he ▸ h.raise_inv _
  · exact he ▸ .of_parts { h with } (.of_idle hx hd hp hu rfl)

/-! The commands. -/

theorem State.Inv.logged {s : State} (h : s.Inv) (e : LogEvent) : (s.logged e).Inv := { h with }

theorem State.Inv.typeI {s : State} (h : s.Inv) (load : Bool) {body : State → State} (hb : TypeIBody body) :
    (s.typeI load body).Inv := by
  rcases s.typeI_cases load hb with ⟨-, he⟩ | ⟨-, dir, tr, ds, e, hmoved, he⟩
  · exact he ▸ h.logged _
  · have hhold : isU32 (typeIDone s load e).busyDelay := by
      have hold := s.params.holdTypeI.isLt
      have busy := h.busyDelay
      simp only [typeIDone]
      split <;> assumption
    exact he ▸ .of_parts { h.lasting.headMoved hmoved with busyDelay := hhold, dataLost := rfl }
      (.of_idle rfl rfl rfl rfl rfl)

theorem DataBody.inv {k : Command} {body : State → State} (hb : DataBody k body) {s : State} (h : s.Lasting)
    (t : CommandType) (b : Option Bool) : (body (s.prologue t b)).Inv := by
  have hp := h.prologue t b
  cases hb with
  | readSector => exact hp.readSectorBody_inv
  | readSectorMulti => exact (hp.logged _).raise_inv _
  | writeSector => exact hp.armWriteBody_inv (.inl rfl) rfl
  | writeSectorMulti => exact (hp.logged _).raise_inv _
  | readAddress => exact hp.readAddressBody_inv
  | readTrack => exact hp.readTrackBody_inv rfl rfl rfl rfl
  | writeTrack => exact hp.armWriteBody_inv (.inr rfl) rfl

theorem State.Inv.command {s : State} (h : s.Inv) {k : Command} {body : State → State} (hb : DataBody k body)
    (t : CommandType) (b : Option Bool) : (s.command t b body).Inv := by
  rcases s.command_cases t b body with ⟨-, he⟩ | ⟨-, he⟩
  · exact he ▸ h.logged _
  · exact he ▸ hb.inv h.lasting t b

theorem forcedIndicators_flags (i : Indicators) :
    (forcedIndicators i).dataRequest = false ∧ (forcedIndicators i).busy = false ∧
      (i.dataLost = false → (forcedIndicators i).dataLost = false) := by
  unfold forcedIndicators
  split <;> simp [Indicators.clear]

theorem State.Inv.forceInterrupt {s : State} (h : s.Inv) : s.forceInterrupt.Inv := by
  obtain ⟨hrequest, hbusy, hlost⟩ := forcedIndicators_flags s.flags
  exact .of_parts
    { h.lasting with busyDelay := (Delay.polls_bounds _).2, dataLost := hlost h.dataLost }
    (.of_idle rfl hrequest rfl rfl hbusy)

/-! The polls. -/

theorem State.Inv.returning {s : State} (h : s.Inv) (v : Byte) : (s.returning v).Inv := { h with }

theorem State.Inv.tickByte {s : State} (h : s.Inv) : s.tickByte.Inv := by
  rcases s.tickByte_cases with ⟨-, he⟩ | ⟨-, -, hcount, he⟩ | ⟨hx, -, -, he⟩
  · rwa [he]
  · have := h.byteDelay
    exact he ▸ { h with byteDelay := by simp only [isU32]; omega }
  · exact he ▸ { h with idle := fun hidle => absurd hidle hx }

/-- The ready count stops at 1, where it stands in a write transfer. -/
theorem State.Inv.tickReady {s : State} (h : s.Inv) : s.tickReady.Inv := by
  have hdelay := h.readyDelay
  have hticked := s.tickReady_readyDelay
  refine State.Inv.of_parts ?_ ?_
  · unfold State.tickReady
    split
    · exact { h.lasting with readyDelay := by simp only [isU32]; omega }
    · exact h.lasting
  · unfold State.tickReady
    split
    · exact { h.phased with writing := fun hw => by have := (h.writing hw).2.2; omega }
    · exact h.phased

theorem State.Inv.tickBusy {s : State} (h : s.Inv) : s.tickBusy.Inv := by
  have hdelay := h.busyDelay
  unfold State.tickBusy
  split
  · split
    · exact { h with busyDelay := by simp [isU32] }
    · exact { h with busyDelay := by simp only [isU32]; omega }
  · exact h

theorem State.Inv.tickIndex {s : State} (h : s.Inv) : s.tickIndex.Inv := by
  have hcount := h.indexCountdown
  unfold State.tickIndex
  split
  · exact { h with indexCountdown := ⟨(Delay.polls_bounds _).1, le_rfl⟩ }
  · exact { h with indexCountdown := by simp only; omega }

/-! The data port. -/

theorem State.Inv.streamNext {s : State} (h : s.Inv) : s.streamNext.Inv := by
  rcases s.streamNext_cases with ⟨-, he⟩ | ⟨hx, hlt, he⟩ | ⟨hx, -, he⟩
  · rwa [he]
  · exact he ▸ .of_parts { h.lasting with byteDelay := Delay.polls_bounds _ }
      { window := ⟨hlt, h.phased.window.2⟩
        idle := by simp [hx]
        reading := fun _ => ⟨(h.reading hx).1, Nat.le_add_left _ _⟩
        writing := by simp [hx]
        busy := h.busy }
  · exact he ▸ .of_parts { h.lasting with } (.of_idle rfl rfl rfl rfl (h.reading hx).1)

theorem State.Lasting.storeByte {s : State} (h : s.Lasting) (v : Byte) : (s.storeByte v).Lasting :=
  { h with bufLength := (List.length_set ..).trans h.bufLength }

theorem State.Lasting.memWritten {s : State} (h : s.Lasting) (p : String) (off : Int) (vs : List Byte) :
    (s.memWritten p off vs).Lasting where
  drives a := by simpa [State.drive] using h.drives a
  readyDelay := by simpa using h.readyDelay
  busyDelay := by simpa using h.busyDelay
  byteDelay := by simpa using h.byteDelay
  indexCountdown := by simpa using h.indexCountdown
  bufLength := by simpa using h.bufLength
  dataLost := by simpa using h.dataLost
  raCounter := by simpa using h.raCounter
  files := State.memWritten_filesWf h.files p off vs

theorem State.Lasting.commitWriteSector_inv {s : State} (h : s.Lasting) (hd : s.flags.dataRequest = false) :
    s.commitWriteSector.Inv := by
  rcases s.commitWriteSector_cases with ⟨f, he⟩ | ⟨d, p, off, -, -, -, -, ⟨-, he⟩ | ⟨-, he⟩⟩
  · exact he ▸ h.raise_inv _
  · exact he ▸ (h.memWritten ..).commitDone_inv (by simpa using hd)
  · exact he ▸ (h.memWritten ..).raise_inv _

theorem State.Lasting.commitWriteTrack_inv {s : State} (h : s.Lasting) (hu : s.used ≤ bufMax)
    (hd : s.flags.dataRequest = false) : s.commitWriteTrack.Inv :=
  State.Lasting.commitDone_inv
    { h with
      bufLength := by
        have := h.bufLength
        simp only [List.length_append, List.length_replicate, List.length_drop]
        omega }
    hd

/-- Accepting a byte: one more byte still leaves one to come, or the transfer commits. -/
theorem State.Inv.acceptByte {s : State} (h : s.Inv) (hx : s.xfer = .writeSectorIn ∨ s.xfer = .writeTrackIn)
    (v : Byte) : (s.acceptByte v).Inv := by
  obtain ⟨hbusy, hlt, hready⟩ := h.writing hx
  have hstored := h.lasting.storeByte v
  unfold State.acceptByte
  split
  · split
    · exact hstored.commitWriteSector_inv rfl
    · exact hstored.commitWriteTrack_inv h.phased.window.2 rfl
  next hlast =>
    exact .of_parts { hstored with byteDelay := Delay.polls_bounds _ }
      { window := ⟨hlt, h.phased.window.2⟩
        idle := fun hidle => absurd (show s.xfer = .idle from hidle) (by rcases hx with hx | hx <;> simp [hx])
        reading := fun hread => absurd (show s.xfer = .readOut from hread) (by rcases hx with hx | hx <;> simp [hx])
        writing := fun _ => ⟨hbusy, lt_of_le_of_ne hlt hlast, hready⟩
        busy := h.busy }

theorem State.Inv.loadData {s : State} (h : s.Inv) (v : Byte) : (s.loadData v).Inv := { h with }

theorem State.Inv.putData {s : State} (h : s.Inv) (v : Byte) : (s.putData v).Inv := by
  rcases s.putData_cases v with ⟨-, he⟩ | ⟨-, -, he⟩ | ⟨hx, -, he⟩
  · exact he ▸ h.loadData v
  · exact he ▸ (h.loadData v).logged _
  · exact he ▸ (h.loadData v).acceptByte hx v

/-! Every event. -/

theorem Meaning.inv {i : Instr} {f : State → State} (hf : Meaning i f) {s : State} (h : s.Inv) : (f s).Inv := by
  cases hf with
  | typeI load _ _ hb => exact h.typeI load hb
  | data side _ hb => exact h.command hb _ _
  | forceInterrupt => exact h.forceInterrupt
  | readStatus => exact h.tickByte.tickReady.tickBusy.tickIndex.returning _
  | readDrivePort => exact h.tickByte.tickReady.returning _
  | readTrackRegister => exact h.returning _
  | readSectorRegister => exact h.returning _
  | readUnmapped => exact h.returning _
  | readData => exact h.streamNext.returning _
  | writeTrackRegister => exact { h with }
  | writeSectorRegister => exact { h with }
  | writeData v => exact h.putData v
  | writeDriveSelect => exact { h with }
  | writeUnmapped => exact h

theorem exec_inv {i : Instr} {s t : State} (h : s.Inv) (he : exec i s = .next t) : t.Inv := by
  obtain ⟨f, hf, hexec⟩ := exists_meaning i
  obtain rfl : f s = t := Host.Outcome.next.inj ((hexec s).symm.trans he)
  exact hf.inv h

/-- A mount supplies a good drive: its descriptor is checked and the head clamped (60_exceptions.md R271). -/
theorem hostMount_inv {a : Fin 4} {d : Descriptor} {s t : State} (h : s.Inv) (he : hostMount a d s = .next t) :
    t.Inv := by
  unfold hostMount at he
  split at he
  next hd =>
    cases he
    exact .of_parts (h.lasting.set_drive a ⟨hd, Nat.min_le_right _ _⟩) { h.phased with }
  · cases he

/-- The preconditions of a mount do not speak of the media (10_state.md R34). -/
theorem State.Inv.unmounted {s : State} (h : s.Inv) (a : Fin 4) : (s.unmounted a).Inv :=
  .of_parts (h.lasting.set_drive a ⟨(h.drives a).mountable, (h.drives a).onTrack⟩) { h.phased with }

theorem State.Inv.hostFile {s : State} (h : s.Inv) (p : String) (c : Option (List Byte)) : (s.hostFile p c).Inv := by
  cases c with
  | none => exact { h with files := filesDrop_wf h.files p }
  | some bs => exact { h with files := filesPut_wf h.files p (Memory.ofBytes_wf bs) }

theorem State.Inv.hardReset {s : State} (h : s.Inv) : s.hardReset.Inv :=
  .of_parts
    { h.lasting with
      readyDelay := by simp [State.hardReset, isU32]
      busyDelay := by simp [State.hardReset, isU32]
      byteDelay := by simp [State.hardReset, isU32]
      indexCountdown := ⟨(Delay.polls_bounds _).1, le_rfl⟩
      dataLost := rfl
      raCounter := by simp [State.hardReset] }
    (.of_idle rfl rfl rfl rfl rfl)

/-- Settles O14: the invariant splits into lasting clauses and clauses about the transfer, and each kind of event
keeps both. -/
theorem everyStepKeepsTheInvariant : Obligations.EveryStepKeepsTheInvariant := by
  intro s t h hstep
  cases hp : s.pending with
  | nil =>
    rw [step_of_fetch_none (fetch_of_pending_nil hp)] at hstep
    cases hstep
    exact h
  | cons e rest =>
    have hrest : { s with pending := rest }.Inv := { h with }
    simp only [step, fetch_of_pending_cons hp] at hstep
    cases e with
    | guest w => exact exec_inv hrest hstep
    | mount a d => exact hostMount_inv hrest hstep
    | unmount a => cases hstep; exact hrest.unmounted a
    | hostFile p c => cases hstep; exact hrest.hostFile p c
    | hardReset => cases hstep; exact hrest.hardReset

/-- Settles O13: no transfer is in hand at system start, and every slot holds the smallest geometry of a mount. -/
theorem invariantAtSystemStart : Obligations.InvariantAtSystemStart := by
  have hdrive : ∀ a, State.reset.drive a = { desc := Descriptor.unmounted, currentTrack := 0 } := fun a => by
    simp [State.drive, State.reset]
  exact .of_parts
    { drives := fun a => hdrive a ▸ ⟨by decide, Nat.zero_le _⟩
      readyDelay := by decide
      busyDelay := by decide
      byteDelay := by decide
      indexCountdown := ⟨(Delay.polls_bounds _).1, le_rfl⟩
      bufLength := List.length_replicate
      dataLost := rfl
      raCounter := by decide
      files := by decide }
    (.of_idle rfl rfl rfl rfl rfl)

end Sys2Proof.Machine
end

section
/-! Who may change the control registers, the parameters and the drives: one lemma says what an instruction can do to
them, and both statements are read off it (10_state.md R24, R25, R27, R31, R32, R43). -/

namespace Sys2Proof.Machine

/-- The parameters, the registers with few writers and the drives are the same in both states. -/
structure ControlsKept (s t : State) : Prop where
  params : t.params = s.params
  side : t.side = s.side
  activeDrive : t.activeDrive = s.activeDrive
  stepDirection : t.stepDirection = s.stepDirection
  raCounter : t.raCounter = s.raCounter
  drives : t.drives = s.drives

theorem ControlsKept.refl (s : State) : ControlsKept s s := ⟨rfl, rfl, rfl, rfl, rfl, rfl⟩

theorem ControlsKept.drive {s t : State} (h : ControlsKept s t) (a : Fin 4) : t.drive a = s.drive a := by
  unfold State.drive
  rw [h.drives]

theorem armWriteBody_controls (s : State) (m : Xfer) : ControlsKept s (s.armWriteBody m) := by
  rcases s.armWriteBody_cases m with ⟨-, he⟩ | ⟨_, _, -, ⟨-, he⟩ | ⟨-, he⟩⟩ <;>
    exact he ▸ ⟨rfl, rfl, rfl, rfl, rfl, rfl⟩

theorem readSectorBody_controls (s : State) : ControlsKept s s.readSectorBody := by
  rcases s.readSectorBody_cases with ⟨_, he⟩ | he | ⟨_, _, _, _, -, -, -, -, he⟩ <;>
    exact he ▸ ⟨rfl, rfl, rfl, rfl, rfl, rfl⟩

theorem readTrackBody_controls (s : State) : ControlsKept s s.readTrackBody := by
  rcases s.readTrackBody_cases with he | he <;> exact he ▸ ⟨rfl, rfl, rfl, rfl, rfl, rfl⟩

theorem commitWriteSector_controls (s : State) : ControlsKept s s.commitWriteSector := by
  rcases s.commitWriteSector_cases with ⟨_, he⟩ | ⟨_, _, _, -, -, -, -, ⟨-, he⟩ | ⟨-, he⟩⟩
  · exact he ▸ ⟨rfl, rfl, rfl, rfl, rfl, rfl⟩
  · rw [he]
    constructor <;> simp
  · rw [he]
    constructor <;> simp

theorem acceptByte_controls (s : State) (v : Byte) : ControlsKept s (s.acceptByte v) := by
  unfold State.acceptByte
  split
  · split
    · exact { commitWriteSector_controls (s.storeByte v) with }
    · exact ⟨rfl, rfl, rfl, rfl, rfl, rfl⟩
  · exact ⟨rfl, rfl, rfl, rfl, rfl, rfl⟩

theorem putData_controls (s : State) (v : Byte) : ControlsKept s (s.putData v) := by
  rcases s.putData_cases v with ⟨-, he⟩ | ⟨-, -, he⟩ | ⟨-, -, he⟩
  · exact he ▸ ⟨rfl, rfl, rfl, rfl, rfl, rfl⟩
  · exact he ▸ ⟨rfl, rfl, rfl, rfl, rfl, rfl⟩
  · exact he ▸ { acceptByte_controls (s.loadData v) v with }

theorem streamNext_controls (s : State) : ControlsKept s s.streamNext := by
  rcases s.streamNext_cases with ⟨-, he⟩ | ⟨-, -, he⟩ | ⟨-, -, he⟩
  · rw [he]
    exact .refl s
  · exact he ▸ ⟨rfl, rfl, rfl, rfl, rfl, rfl⟩
  · exact he ▸ ⟨rfl, rfl, rfl, rfl, rfl, rfl⟩

/-- The body of a Type II or III command leaves the controls, but for the counter of ReadAddress (10_state.md R43). -/
theorem DataBody.controls {k : Command} {body : State → State} (hb : DataBody k body) (s : State) :
    ∃ n, (n ≠ s.raCounter → ∃ b, k = .readAddress b) ∧ ControlsKept { s with raCounter := n } (body s) := by
  cases hb with
  | readSector => exact ⟨_, fun h => absurd rfl h, readSectorBody_controls s⟩
  | readSectorMulti => exact ⟨_, fun h => absurd rfl h, ⟨rfl, rfl, rfl, rfl, rfl, rfl⟩⟩
  | writeSector => exact ⟨_, fun h => absurd rfl h, armWriteBody_controls s _⟩
  | writeSectorMulti => exact ⟨_, fun h => absurd rfl h, ⟨rfl, rfl, rfl, rfl, rfl, rfl⟩⟩
  | readAddress b =>
    refine ⟨s.readAddressBody.raCounter, fun _ => ⟨b, rfl⟩, ?_⟩
    rcases s.readAddressBody_cases with he | ⟨d, p, -, he⟩ <;> rw [he] <;> exact ⟨rfl, rfl, rfl, rfl, rfl, rfl⟩
  | readTrack => exact ⟨_, fun h => absurd rfl h, readTrackBody_controls s⟩
  | writeTrack => exact ⟨_, fun h => absurd rfl h, armWriteBody_controls s _⟩

/-- All that an instruction can do to the controls. -/
inductive ControlsChange (i : Instr) (s t : State) : Prop where
  | none (kept : ControlsKept s t)
  | driveSelect (v : Byte) (isSelect : i = .writeDriveSelect v)
      (kept : ControlsKept { s with activeDrive := decodeSelect v } t)
  | typeI (k : Command) (issued : issues i k) (isTypeI : commandType k = .typeI) (dir : StepDirection)
      (ds : Vector Drive 4) (moved : HeadMoved s ds)
      (kept : ControlsKept { s with stepDirection := dir, drives := ds } t)
  | data (k : Command) (issued : issues i k) (isData : commandType k = .typeII ∨ commandType k = .typeIII)
      (b : Bool) (n : Nat) (counted : n ≠ s.raCounter → ∃ b, k = .readAddress b)
      (kept : ControlsKept { s with side := b, raCounter := n } t)

theorem typeI_controls {i : Instr} {k : Command} (hi : issues i k) (hk : commandType k = .typeI)
    {body : State → State} (hb : TypeIBody body) (s : State) (load : Bool) :
    ControlsChange i s (s.typeI load body) := by
  rcases s.typeI_cases load hb with ⟨-, he⟩ | ⟨-, dir, _, ds, _, hmoved, he⟩
  · exact he ▸ .none ⟨rfl, rfl, rfl, rfl, rfl, rfl⟩
  · exact he ▸ .typeI k hi hk dir ds hmoved ⟨rfl, rfl, rfl, rfl, rfl, rfl⟩

theorem command_controls {i : Instr} {k : Command} (hi : issues i k) {body : State → State} (hb : DataBody k body)
    (s : State) (side : Bool) : ControlsChange i s (s.command (commandType k) (some side) body) := by
  rcases s.command_cases (commandType k) (some side) body with ⟨-, he⟩ | ⟨-, he⟩
  · exact he ▸ .none ⟨rfl, rfl, rfl, rfl, rfl, rfl⟩
  · obtain ⟨n, hn, hkept⟩ := hb.controls (s.prologue (commandType k) (some side))
    exact he ▸ .data k hi hb.commandType_eq side n hn { hkept with }

theorem Meaning.controls {i : Instr} {f : State → State} (hf : Meaning i f) (s : State) :
    ControlsChange i s (f s) := by
  cases hf with
  | typeI load hi hk hb => exact typeI_controls hi hk hb s load
  | data side hi hb => exact command_controls hi hb s side
  | forceInterrupt => exact .none ⟨rfl, rfl, rfl, rfl, rfl, rfl⟩
  | readStatus => exact .none (by constructor <;> simp [State.statusTicks])
  | readDrivePort => exact .none (by constructor <;> simp)
  | readTrackRegister => exact .none ⟨rfl, rfl, rfl, rfl, rfl, rfl⟩
  | readSectorRegister => exact .none ⟨rfl, rfl, rfl, rfl, rfl, rfl⟩
  | readUnmapped => exact .none ⟨rfl, rfl, rfl, rfl, rfl, rfl⟩
  | readData => exact .none { streamNext_controls s with }
  | writeTrackRegister => exact .none ⟨rfl, rfl, rfl, rfl, rfl, rfl⟩
  | writeSectorRegister => exact .none ⟨rfl, rfl, rfl, rfl, rfl, rfl⟩
  | writeData v => exact .none (putData_controls s v)
  | writeDriveSelect v => exact .driveSelect v rfl ⟨rfl, rfl, rfl, rfl, rfl, rfl⟩
  | writeUnmapped => exact .none (.refl s)

theorem exec_controls {i : Instr} {s t : State} (he : exec i s = .next t) : ControlsChange i s t := by
  obtain ⟨f, hf, hexec⟩ := exists_meaning i
  obtain rfl : f s = t := Host.Outcome.next.inj ((hexec s).symm.trans he)
  exact hf.controls s

/-- A move keeps every descriptor, and the head of every drive but the active one. -/
theorem HeadMoved.drive {s : State} {ds : Vector Drive 4} (h : HeadMoved s ds) (b : Fin 4) :
    ({ s with drives := ds }.drive b).desc = (s.drive b).desc ∧
      (({ s with drives := ds }.drive b).currentTrack ≠ (s.drive b).currentTrack → s.activeDrive = some b) := by
  rcases h with rfl | ⟨a, n, ha, rfl, -⟩
  · exact ⟨rfl, fun hne => absurd rfl hne⟩
  · have hset := s.setCurrentTrack_drive a b n
    show ((s.setCurrentTrack a n).drive b).desc = _ ∧ (((s.setCurrentTrack a n).drive b).currentTrack ≠ _ → _)
    by_cases hb : b = a
    · rw [hset, if_pos hb]
      exact ⟨by rw [hb], fun _ => by rw [hb, ha]⟩
    · rw [hset, if_neg hb]
      exact ⟨rfl, fun hne => absurd rfl hne⟩

/-- Settles O50: the drives change in a Type I command only, by one move of the active drive's head. -/
theorem headsMoveOnlyByTypeICommands : Obligations.HeadsMoveOnlyByTypeICommands := by
  intro i s t he
  cases exec_controls he with
  | none kept =>
    exact ⟨fun a => by rw [kept.drive], fun a hne => absurd (by rw [kept.drive]) hne⟩
  | driveSelect _ _ kept =>
    exact ⟨fun a => by rw [kept.drive]; rfl, fun a hne => absurd (by rw [kept.drive]; rfl) hne⟩
  | data _ _ _ _ _ _ kept =>
    exact ⟨fun a => by rw [kept.drive]; rfl, fun a hne => absurd (by rw [kept.drive]; rfl) hne⟩
  | typeI k issued isTypeI dir ds moved kept =>
    refine ⟨fun a => ?_, fun a hne => ?_⟩
    · rw [kept.drive]
      exact (moved.drive a).1
    · rw [kept.drive] at hne
      exact ⟨(moved.drive a).2 hne, k, issued, isTypeI⟩

/-- Settles O51: each kind of change to the controls names the instruction that makes it. -/
theorem registersChangeOnlyByTheirWriters : Obligations.RegistersChangeOnlyByTheirWriters := by
  intro i s t he
  cases exec_controls he with
  | none kept =>
    exact ⟨kept.params, fun h => absurd kept.side h, fun h => absurd kept.activeDrive h,
      fun h => absurd kept.stepDirection h, fun h => absurd kept.raCounter h⟩
  | driveSelect v isSelect kept =>
    exact ⟨kept.params, fun h => absurd kept.side h, fun _ => ⟨v, isSelect⟩,
      fun h => absurd kept.stepDirection h, fun h => absurd kept.raCounter h⟩
  | typeI k issued isTypeI dir ds moved kept =>
    exact ⟨kept.params, fun h => absurd kept.side h, fun h => absurd kept.activeDrive h,
      fun _ => ⟨k, issued, isTypeI⟩, fun h => absurd kept.raCounter h⟩
  | data k issued isData b n counted kept =>
    refine ⟨kept.params, fun _ => ⟨k, issued, isData⟩, fun h => absurd kept.activeDrive h,
      fun h => absurd kept.stepDirection h, fun h => ?_⟩
    obtain ⟨b, rfl⟩ := counted fun hn => h (kept.raCounter.trans hn)
    exact ⟨b, issued⟩

end Sys2Proof.Machine
end

section
/-! The buffer's bytes outside the transfer are unobservable (10_state.md R42). `withBuf` puts another buffer in place
of a state's own; most operations commute with it, and the few that read or write the buffer touch its live part only. -/

namespace Sys2Proof.Machine

/-- The state with another buffer. -/
def State.withBuf (s : State) (b : List Byte) : State := { s with buf := b }

@[simp] theorem State.withBuf_trackReg (s : State) (b : List Byte) : (s.withBuf b).trackReg = s.trackReg := rfl
@[simp] theorem State.withBuf_dataReg (s : State) (b : List Byte) : (s.withBuf b).dataReg = s.dataReg := rfl
@[simp] theorem State.withBuf_activeDrive (s : State) (b : List Byte) : (s.withBuf b).activeDrive = s.activeDrive := rfl
@[simp] theorem State.withBuf_flags (s : State) (b : List Byte) : (s.withBuf b).flags = s.flags := rfl
@[simp] theorem State.withBuf_readyDelay (s : State) (b : List Byte) : (s.withBuf b).readyDelay = s.readyDelay := rfl
@[simp] theorem State.withBuf_busyDelay (s : State) (b : List Byte) : (s.withBuf b).busyDelay = s.busyDelay := rfl
@[simp] theorem State.withBuf_byteDelay (s : State) (b : List Byte) : (s.withBuf b).byteDelay = s.byteDelay := rfl
@[simp] theorem State.withBuf_indexCountdown (s : State) (b : List Byte) :
    (s.withBuf b).indexCountdown = s.indexCountdown := rfl
@[simp] theorem State.withBuf_xfer (s : State) (b : List Byte) : (s.withBuf b).xfer = s.xfer := rfl
@[simp] theorem State.withBuf_buf (s : State) (b : List Byte) : (s.withBuf b).buf = b := rfl
@[simp] theorem State.withBuf_position (s : State) (b : List Byte) : (s.withBuf b).position = s.position := rfl
@[simp] theorem State.withBuf_used (s : State) (b : List Byte) : (s.withBuf b).used = s.used := rfl
@[simp] theorem State.withBuf_files (s : State) (b : List Byte) : (s.withBuf b).files = s.files := rfl
@[simp] theorem State.withBuf_params (s : State) (b : List Byte) : (s.withBuf b).params = s.params := rfl
@[simp] theorem State.withBuf_drive (s : State) (b : List Byte) (a : Fin 4) : (s.withBuf b).drive a = s.drive a := rfl
@[simp] theorem State.withBuf_activeMedia (s : State) (b : List Byte) : (s.withBuf b).activeMedia = s.activeMedia := rfl
@[simp] theorem State.withBuf_readyMedia (s : State) (b : List Byte) : (s.withBuf b).readyMedia = s.readyMedia := rfl
@[simp] theorem State.withBuf_sectorOffset (s : State) (b : List Byte) (d : Drive) :
    (s.withBuf b).sectorOffset d = s.sectorOffset d := rfl
@[simp] theorem State.withBuf_memRead (s : State) (b : List Byte) (p : String) (off : Int) (n : Nat) :
    (s.withBuf b).memRead p off n = s.memRead p off n := rfl
@[simp] theorem State.withBuf_memWriteOk (s : State) (b : List Byte) (p : String) (off : Int) (n : Nat) :
    (s.withBuf b).memWriteOk p off n = s.memWriteOk p off n := rfl

/-- How many bytes at the start of the buffer the current transfer still depends on. -/
def State.live (s : State) : Nat :=
  match s.xfer with
  | .idle => 0
  | .readOut => s.used
  | .writeSectorIn => s.position
  | .writeTrackIn => s.position

theorem State.live_of_idle {s : State} (h : s.xfer = .idle) : s.live = 0 := by simp [State.live, h]

theorem State.live_of_readOut {s : State} (h : s.xfer = .readOut) : s.live = s.used := by simp [State.live, h]

theorem State.live_of_writing {s : State} (h : s.xfer = .writeSectorIn ∨ s.xfer = .writeTrackIn) :
    s.live = s.position := by
  rcases h with h | h <;> simp [State.live, h]

/-- `b` may stand in for the state's buffer: as long, and equal in the live bytes. -/
structure State.SameLive (s : State) (b : List Byte) : Prop where
  length : b.length = s.buf.length
  agree : ∀ i, i < s.live → s.buf[i]? = b[i]?

/-- The relation of the statement, as a replacement of the buffer. -/
theorem sameButDeadBuffer_iff {s t : State} : SameButDeadBuffer s t ↔ t = s.withBuf t.buf ∧ s.SameLive t.buf := by
  constructor
  · intro h
    refine ⟨by rw [← h.others]; rfl, h.lengths.symm, fun i hi => ?_⟩
    cases hx : s.xfer with
    | idle => simp [State.live, hx] at hi
    | readOut => exact h.reading hx i (by simpa [State.live, hx] using hi)
    | writeSectorIn => exact h.writing (.inl hx) i (by simpa [State.live, hx] using hi)
    | writeTrackIn => exact h.writing (.inr hx) i (by simpa [State.live, hx] using hi)
  · rintro ⟨ht, hlive⟩
    exact
      { others := by rw [ht]; rfl
        lengths := hlive.length.symm
        reading := fun hx i hi => hlive.agree i (by rwa [State.live_of_readOut hx])
        writing := fun hx i hi => hlive.agree i (by rwa [State.live_of_writing hx]) }

theorem State.SameLive.related {s : State} {b : List Byte} (h : s.SameLive b) : SameButDeadBuffer s (s.withBuf b) :=
  sameButDeadBuffer_iff.mpr ⟨rfl, h⟩

/-- With no transfer in hand every buffer of the same length may stand in. -/
theorem State.SameLive.of_idle {s : State} {b : List Byte} (hx : s.xfer = .idle) (hl : b.length = s.buf.length) :
    s.SameLive b :=
  ⟨hl, fun i hi => by simp [State.live_of_idle hx] at hi⟩

/-- The same buffer may stand in for a state with the same bytes, of which no more are live. -/
theorem State.SameLive.mono {s t : State} {b : List Byte} (h : s.SameLive b) (hb : t.buf = s.buf)
    (hl : t.live ≤ s.live) : t.SameLive b :=
  ⟨by rw [hb]; exact h.length, fun i hi => by rw [hb]; exact h.agree i (hi.trans_le hl)⟩

/-! Operations that do not touch the buffer. -/

/-- The operation neither reads nor writes the buffer. -/
def BufferBlind (f : State → State) : Prop := ∀ s b, f (s.withBuf b) = (f s).withBuf b

theorem BufferBlind.buf {f : State → State} (hf : BufferBlind f) (s : State) : (f s).buf = s.buf := by
  have h := hf s s.buf
  change f s = (f s).withBuf s.buf at h
  rw [h, State.withBuf_buf]

theorem BufferBlind.comp {f g : State → State} (hg : BufferBlind g) (hf : BufferBlind f) :
    BufferBlind (fun s => g (f s)) := fun s b => by
  show g (f (s.withBuf b)) = (g (f s)).withBuf b
  rw [hf, hg]

/-- A blind operation that makes no more bytes live keeps the relation. -/
theorem BufferBlind.related {f : State → State} (hf : BufferBlind f) {s : State} {b : List Byte} (h : s.SameLive b)
    (hl : (f s).live ≤ s.live) : SameButDeadBuffer (f s) (f (s.withBuf b)) := by
  rw [hf]
  exact (h.mono (hf.buf s) hl).related

theorem BufferBlind.related_of_idle {f : State → State} (hf : BufferBlind f) {s : State} {b : List Byte}
    (h : s.SameLive b) (hx : (f s).xfer = .idle) : SameButDeadBuffer (f s) (f (s.withBuf b)) :=
  hf.related h (by simp [State.live_of_idle hx])

/-- A blind operation that leaves the transfer where it stands keeps the relation. -/
theorem BufferBlind.related_of_kept {f : State → State} (hf : BufferBlind f) {s : State} {b : List Byte}
    (h : s.SameLive b) (hx : (f s).xfer = s.xfer) (hp : (f s).position = s.position) (hu : (f s).used = s.used) :
    SameButDeadBuffer (f s) (f (s.withBuf b)) :=
  hf.related h (by simp [State.live, hx, hp, hu])

theorem tickByte_blind : BufferBlind State.tickByte := fun s b => by
  by_cases hwaits : s.xfer ≠ .idle ∧ s.flags.dataRequest = false
  · by_cases hcount : s.byteDelay > 1 <;> simp [State.tickByte, hwaits, hcount, State.withBuf]
  · simp only [State.tickByte, State.withBuf_xfer, State.withBuf_flags, hwaits, if_false]

theorem tickReady_blind : BufferBlind State.tickReady := fun s b => by
  by_cases hcount : s.readyDelay > 1 <;> simp [State.tickReady, hcount, State.withBuf]

theorem tickBusy_blind : BufferBlind State.tickBusy := fun s b => by
  by_cases hholds : s.busyDelay > 0
  · by_cases hlast : s.busyDelay = 1 <;> simp [State.tickBusy, hholds, hlast, State.withBuf]
  · simp [State.tickBusy, hholds]

theorem tickIndex_blind : BufferBlind State.tickIndex := fun s b => by
  by_cases hlast : s.indexCountdown - 1 = 0 <;> simp [State.tickIndex, hlast, State.withBuf]

theorem statusTicks_blind : BufferBlind State.statusTicks :=
  tickIndex_blind.comp (tickBusy_blind.comp tickReady_blind)

theorem headLoad_blind (load : Bool) : BufferBlind (fun s => s.headLoad load) := fun s b => by
  by_cases hloads : (load && s.activeDrive.isSome) = true <;> simp [State.headLoad, hloads, State.withBuf]

theorem finishTypeI_blind : BufferBlind State.finishTypeI := fun s b => by
  by_cases hhold : s.params.holdTypeI.val = 0 <;> simp [State.finishTypeI, hhold, State.withBuf]

theorem TypeIBody.blind {body : State → State} (hb : TypeIBody body) : BufferBlind body := by
  intro s b
  have hstep (t : State) (u : Bool) : (t.withBuf b).stepMove u = (t.stepMove u).withBuf b := by
    simp only [State.stepMove, State.withBuf_activeDrive]
    cases t.activeDrive <;> rfl
  cases hb with
  | restore =>
    simp only [State.restoreBody, State.withBuf_activeDrive]
    cases s.activeDrive <;> rfl
  | seek =>
    simp only [State.seekBody, State.withBuf_activeDrive, State.withBuf_drive, State.withBuf_dataReg]
    cases s.activeDrive with
    | none => rfl
    | some a =>
      by_cases hfar : (s.drive a).desc.tracks ≤ s.dataReg.toNat
      · simp only [hfar, if_true]
        rfl
      · simp only [hfar, if_false]
        rfl
  | step update => exact hstep s update
  | stepFacing dir update => exact hstep (s.facing dir) update

/-- The busy gate reads no buffer. -/
theorem command_blind {body : State → State} (hb : BufferBlind body) (t : CommandType) (side : Option Bool) :
    BufferBlind (fun s => s.command t side body) := fun s b => by
  show (s.withBuf b).command t side body = (s.command t side body).withBuf b
  cases hbusy : s.flags.busy with
  | true => rw [State.command_of_busy hbusy, State.command_of_busy (s := s.withBuf b) hbusy]; rfl
  | false =>
    rw [State.command_of_idle hbusy, State.command_of_idle (s := s.withBuf b) hbusy]
    exact hb (s.prologue t side) b

theorem typeI_blind {body : State → State} (hb : TypeIBody body) (load : Bool) :
    BufferBlind (fun s => s.typeI load body) :=
  command_blind (finishTypeI_blind.comp ((headLoad_blind load).comp hb.blind)) .typeI none

theorem armWriteBody_blind (m : Xfer) : BufferBlind (fun s => s.armWriteBody m) := fun s b => by
  simp only [State.armWriteBody, State.withBuf_readyMedia]
  cases s.readyMedia with
  | none => rfl
  | some x => cases hprotect : x.1.desc.writeProtect <;> simp only [hprotect] <;> rfl

theorem readTrackBody_blind : BufferBlind State.readTrackBody := fun s b => by
  simp only [State.readTrackBody, State.withBuf_readyMedia]
  cases s.readyMedia <;> rfl

/-! Operations that read or write the buffer. -/

/-- A stream of bytes just put into the buffer is the same in both states. -/
theorem stream_related {s : State} {b bs : List Byte} (hb : b.length = s.buf.length) (hbs : bs ≠ []) :
    SameButDeadBuffer (s.fillBuffer bs).armRead.notBusy ((s.withBuf b).fillBuffer bs).armRead.notBusy := by
  have hfirst (rest : List Byte) : (bs ++ rest)[0]? = bs[0]? :=
    List.getElem?_append_left (List.length_pos_iff.mpr hbs)
  refine sameButDeadBuffer_iff.mpr ⟨?_, by simp [hb], fun i hi => ?_⟩
  · simp [State.fillBuffer, State.armRead, State.notBusy, State.withBuf, hfirst]
  · have hi : i < bs.length := hi
    simp [List.getElem?_append_left hi]

theorem readSectorBody_related {s : State} {b : List Byte} (h : s.SameLive b) (hs : s.Lasting) :
    SameButDeadBuffer s.readSectorBody (s.withBuf b).readSectorBody := by
  simp only [State.readSectorBody, State.withBuf_readyMedia, State.withBuf_trackReg, State.withBuf_sectorOffset,
    State.withBuf_memRead]
  cases hm : s.readyMedia with
  | none => exact State.SameLive.related (.of_idle rfl h.length)
  | some x =>
    by_cases ht : s.trackReg.toNat = x.1.currentTrack
    · simp only [ht, ne_eq, not_true_eq_false, if_false]
      cases s.sectorOffset x.1 with
      | error e => exact State.SameLive.related (.of_idle rfl h.length)
      | ok off =>
        dsimp only
        cases hread : s.memRead x.2 off x.1.desc.sectorSize with
        | none => exact State.SameLive.related (.of_idle rfl h.length)
        | some bs =>
          have hsize := (hs.of_readyMedia hm).1.sectorSize_bounds.1
          rw [← State.memRead_length hread] at hsize
          exact stream_related (s := s.ioTaken) h.length (List.ne_nil_of_length_pos hsize)
    · simp only [ht, ne_eq, not_false_eq_true, if_true]
      exact State.SameLive.related (.of_idle rfl h.length)

theorem readAddressBody_related {s : State} {b : List Byte} (h : s.SameLive b) :
    SameButDeadBuffer s.readAddressBody (s.withBuf b).readAddressBody := by
  simp only [State.readAddressBody, State.withBuf_readyMedia]
  cases s.readyMedia with
  | none => exact State.SameLive.related (.of_idle rfl h.length)
  | some x => exact stream_related (s := s.raAdvance x.1) h.length (List.cons_ne_nil _ _)

/-- A write transfer starts with no byte accepted, so that no byte is live. -/
theorem armWriteBody_related {s : State} {b : List Byte} (h : s.SameLive b) {m : Xfer}
    (hm : m = .writeSectorIn ∨ m = .writeTrackIn) :
    SameButDeadBuffer (s.armWriteBody m) ((s.withBuf b).armWriteBody m) := by
  have hlive : (s.armWriteBody m).live = 0 := by
    rcases s.armWriteBody_cases m with ⟨-, he⟩ | ⟨_, _, -, ⟨-, he⟩ | ⟨-, he⟩⟩
    · rw [he, State.live_of_idle (State.raise_xfer ..)]
    · rw [he, State.live_of_idle (State.raise_xfer ..)]
    · rw [he, State.live_of_writing hm, State.armWrite_position]
  exact (armWriteBody_blind m).related h (hlive ▸ Nat.zero_le _)

/-- The body of a Type II or III command, run with no transfer in hand. -/
theorem DataBody.related {k : Command} {body : State → State} (hb : DataBody k body) {s : State} {b : List Byte}
    (h : s.SameLive b) (hs : s.Lasting) (hx : s.xfer = .idle) :
    SameButDeadBuffer (body s) (body (s.withBuf b)) := by
  cases hb with
  | readSector => exact readSectorBody_related h hs
  | readSectorMulti => exact State.SameLive.related (.of_idle rfl h.length)
  | writeSector => exact armWriteBody_related h (.inl rfl)
  | writeSectorMulti => exact State.SameLive.related (.of_idle rfl h.length)
  | readAddress => exact readAddressBody_related h
  | readTrack =>
    refine readTrackBody_blind.related_of_idle h ?_
    rcases s.readTrackBody_cases with he | he
    · rw [he]; rfl
    · rw [he]; exact hx
  | writeTrack => exact armWriteBody_related h (.inr rfl)

theorem command_related {k : Command} {body : State → State} (hb : DataBody k body) {s : State} {b : List Byte}
    (h : s.SameLive b) (hs : s.Lasting) (t : CommandType) (side : Option Bool) :
    SameButDeadBuffer (s.command t side body) ((s.withBuf b).command t side body) := by
  cases hbusy : s.flags.busy with
  | true =>
    rw [State.command_of_busy hbusy, State.command_of_busy (s := s.withBuf b) hbusy]
    exact State.SameLive.related (s := s.logged _) ⟨h.length, h.agree⟩
  | false =>
    rw [State.command_of_idle hbusy, State.command_of_idle (s := s.withBuf b) hbusy]
    exact hb.related (s := s.prologue t side) (.of_idle rfl h.length) (hs.prologue t side) rfl

theorem typeI_related {body : State → State} (hb : TypeIBody body) {s : State} {b : List Byte} (h : s.SameLive b)
    (load : Bool) : SameButDeadBuffer (s.typeI load body) ((s.withBuf b).typeI load body) := by
  refine (typeI_blind hb load).related h ?_
  rcases s.typeI_cases load hb with ⟨-, he⟩ | ⟨-, _, _, _, _, -, he⟩
  · exact he ▸ le_rfl
  · exact he ▸ Nat.zero_le _

/-! The data port and the polls. -/

theorem streamNext_of_not_readOut {s : State} (h : s.xfer ≠ .readOut) : s.streamNext = s := if_neg h

theorem streamNext_of_end {s : State} (h : s.xfer = .readOut) (hend : ¬ s.position < s.used) :
    s.streamNext =
      { s.endTransfer with flags := { s.flags with dataRequest := false, interruptRequest := true } } := by
  rw [State.streamNext, if_pos h, if_neg hend]

theorem streamNext_of_more {s : State} (h : s.xfer = .readOut) (hmore : s.position < s.used) :
    s.streamNext =
      { s with
        dataReg := s.buf.getD s.position 0, position := s.position + 1,
        flags := { s.flags with dataRequest := false }, byteDelay := s.params.byteDelay.polls } := by
  rw [State.streamNext, if_pos h, if_pos hmore]

/-- A data-port read in a stream takes a live byte. -/
theorem streamNext_related {s : State} {b : List Byte} (h : s.SameLive b) :
    SameButDeadBuffer s.streamNext (s.withBuf b).streamNext := by
  by_cases hx : s.xfer = .readOut
  · by_cases hmore : s.position < s.used
    · have hbyte : b.getD s.position 0 = s.buf.getD s.position 0 := by
        rw [List.getD_eq_getElem?_getD, List.getD_eq_getElem?_getD, h.agree _ (by rwa [State.live_of_readOut hx])]
      have hnext : (s.withBuf b).streamNext = s.streamNext.withBuf b := by
        rw [streamNext_of_more hx hmore, streamNext_of_more (s := s.withBuf b) hx hmore]
        simp only [State.withBuf, hbyte]
      have hlive : s.streamNext.live = s.live := by
        simp [streamNext_of_more hx hmore, State.live, hx]
      rw [hnext]
      exact (h.mono (by rw [streamNext_of_more hx hmore]) hlive.le).related
    · rw [streamNext_of_end hx hmore, streamNext_of_end (s := s.withBuf b) hx hmore]
      exact State.SameLive.related (.of_idle rfl h.length)
  · rw [streamNext_of_not_readOut hx, streamNext_of_not_readOut (s := s.withBuf b) hx]
    exact h.related

theorem memWritten_blind (p : String) (off : Int) (vs : List Byte) : BufferBlind (fun s => s.memWritten p off vs) := by
  intro s b
  simp only [State.memWritten, State.withBuf_files, State.withBuf_memWriteOk]
  cases filesFind s.files p with
  | none => rfl
  | some m =>
    by_cases hoff : 0 ≤ off
    · simp only [hoff, if_true]
      rfl
    · simp only [hoff, if_false]
      rfl

/-- A sector's commit writes the `used` bytes of the buffer and no other. -/
theorem commitWriteSector_related {s : State} {b : List Byte} (hl : b.length = s.buf.length)
    (hagree : ∀ i, i < s.used → s.buf[i]? = b[i]?) :
    SameButDeadBuffer s.commitWriteSector (s.withBuf b).commitWriteSector := by
  have htake : b.take s.used = s.buf.take s.used := by
    refine List.ext_getElem? fun i => ?_
    by_cases hi : i < s.used
    · rw [List.getElem?_take_of_lt hi, List.getElem?_take_of_lt hi, hagree i hi]
    · rw [List.getElem?_take_eq_none (by omega), List.getElem?_take_eq_none (by omega)]
  have hwritten (p : String) (off : Int) (vs : List Byte) :
      (s.withBuf b).memWritten p off vs = (s.memWritten p off vs).withBuf b := memWritten_blind p off vs s b
  have hlen (p : String) (off : Int) (vs : List Byte) : b.length = (s.memWritten p off vs).buf.length := by
    rw [State.memWritten_buf, hl]
  simp only [State.commitWriteSector, State.withBuf_activeMedia, State.withBuf_trackReg, State.withBuf_sectorOffset,
    State.withBuf_memWriteOk, State.withBuf_buf, State.withBuf_used, htake, hwritten]
  cases s.activeMedia with
  | none => exact State.SameLive.related (.of_idle rfl hl)
  | some x =>
    dsimp only
    cases x.1.desc.writeProtect with
    | true => exact State.SameLive.related (.of_idle rfl hl)
    | false =>
      by_cases ht : s.trackReg.toNat = x.1.currentTrack
      · simp only [ht, ne_eq, not_true_eq_false, if_false, Bool.false_eq_true]
        cases s.sectorOffset x.1 with
        | error e => exact State.SameLive.related (.of_idle rfl hl)
        | ok off =>
          dsimp only
          cases s.memWriteOk x.2 off (s.buf.take s.used).length with
          | true => exact State.SameLive.related (.of_idle rfl (hlen ..))
          | false => exact State.SameLive.related (.of_idle rfl (hlen ..))
      · simp only [ht, ne_eq, not_false_eq_true, if_true, Bool.false_eq_true, if_false]
        exact State.SameLive.related (.of_idle rfl hl)

/-- After a byte is stored, one more byte agrees: the stored one. -/
theorem storeByte_agree {s : State} {b : List Byte} (h : s.SameLive b)
    (hx : s.xfer = .writeSectorIn ∨ s.xfer = .writeTrackIn) (v : Byte) (i : Nat) (hi : i < s.position + 1) :
    (s.buf.set s.position v)[i]? = (b.set s.position v)[i]? := by
  rw [List.getElem?_set, List.getElem?_set, h.length]
  by_cases hlast : s.position = i
  · rw [if_pos hlast, if_pos hlast]
  · rw [if_neg hlast, if_neg hlast]
    exact h.agree i (by rw [State.live_of_writing hx]; omega)

theorem acceptByte_related {s : State} {b : List Byte} (h : s.SameLive b)
    (hx : s.xfer = .writeSectorIn ∨ s.xfer = .writeTrackIn) (v : Byte) :
    SameButDeadBuffer (s.acceptByte v) ((s.withBuf b).acceptByte v) := by
  have hstore : (s.withBuf b).storeByte v = (s.storeByte v).withBuf (b.set s.position v) := rfl
  have hlen : (b.set s.position v).length = (s.storeByte v).buf.length := by
    simp [State.storeByte, h.length]
  have hagree := storeByte_agree h hx v
  simp only [State.acceptByte, State.withBuf_position, State.withBuf_used, State.withBuf_xfer, hstore]
  by_cases hlast : s.position + 1 = s.used
  · simp only [hlast, if_true]
    by_cases hsector : s.xfer = .writeSectorIn
    · simp only [hsector, if_true]
      exact commitWriteSector_related hlen fun i hi => hagree i (by rw [hlast]; exact hi)
    · simp only [hsector, if_false]
      refine State.SameLive.related (s := (s.storeByte v).commitWriteTrack) (.of_idle rfl ?_)
      simp [State.commitWriteTrack, hlen]
  · simp only [hlast, if_false]
    refine State.SameLive.related
      (s := { s.storeByte v with byteDelay := s.params.byteDelay.polls }) ⟨hlen, fun i hi => ?_⟩
    exact hagree i (by rwa [State.live_of_writing (by exact hx)] at hi)

theorem putData_related {s : State} {b : List Byte} (h : s.SameLive b) (v : Byte) :
    SameButDeadBuffer (s.putData v) ((s.withBuf b).putData v) := by
  have hloaded : (s.loadData v).SameLive b := ⟨h.length, h.agree⟩
  by_cases hx : s.xfer = .writeSectorIn ∨ s.xfer = .writeTrackIn
  · cases hd : s.flags.dataRequest with
    | true =>
      simp only [State.putData, State.withBuf_xfer, State.withBuf_flags, hx, hd, if_true]
      exact acceptByte_related hloaded hx v
    | false =>
      simp only [State.putData, State.withBuf_xfer, State.withBuf_flags, hx, hd, if_true, Bool.false_eq_true, if_false]
      exact State.SameLive.related (s := (s.loadData v).logged _) ⟨h.length, h.agree⟩
  · simp only [State.putData, State.withBuf_xfer, hx, if_false]
    exact hloaded.related

theorem SameButDeadBuffer.returning {s t : State} (h : SameButDeadBuffer s t) (v : Byte) :
    SameButDeadBuffer (s.returning v) (t.returning v) := by
  obtain ⟨ht, hlive⟩ := sameButDeadBuffer_iff.mp h
  rw [ht]
  exact State.SameLive.related (s := s.returning v) ⟨hlive.length, hlive.agree⟩

theorem SameButDeadBuffer.lastRead {s t : State} (h : SameButDeadBuffer s t) : s.lastRead = t.lastRead :=
  (congrArg State.lastRead h.others).symm

theorem Meaning.related {i : Instr} {f : State → State} (hf : Meaning i f) {s : State} {b : List Byte}
    (h : s.SameLive b) (hs : s.Lasting) : SameButDeadBuffer (f s) (f (s.withBuf b)) := by
  have hbyte : (s.withBuf b).tickByte = s.tickByte.withBuf b := tickByte_blind s b
  cases hf with
  | typeI load _ _ hb => exact typeI_related hb h load
  | data side _ hb => exact command_related hb h hs _ _
  | forceInterrupt => exact State.SameLive.related (s := s.forceInterrupt) (.of_idle rfl h.length)
  | readStatus =>
    have hticks := (statusTicks_blind.comp tickByte_blind).related_of_kept h
      (by simp [State.statusTicks]) (by simp [State.statusTicks]) (by simp [State.statusTicks])
    simp only [hbyte] at hticks ⊢
    exact hticks.returning _
  | readDrivePort =>
    have hticks := (tickReady_blind.comp tickByte_blind).related_of_kept h (by simp) (by simp) (by simp)
    simp only [hbyte] at hticks ⊢
    exact hticks.returning _
  | readTrackRegister => exact h.related.returning _
  | readSectorRegister => exact h.related.returning _
  | readUnmapped => exact h.related.returning _
  | readData => exact (streamNext_related h).returning _
  | writeTrackRegister v => exact State.SameLive.related (s := { s with trackReg := v }) ⟨h.length, h.agree⟩
  | writeSectorRegister v => exact State.SameLive.related (s := { s with sectorReg := v }) ⟨h.length, h.agree⟩
  | writeData v => exact putData_related h v
  | writeDriveSelect v =>
    exact State.SameLive.related (s := { s with activeDrive := decodeSelect v }) ⟨h.length, h.agree⟩
  | writeUnmapped => exact h.related

/-- Settles O53: a related state is the same state with another buffer, and no operation reads more of the buffer than
its live bytes. -/
theorem deadBufferBytesAreUnobservable : Obligations.DeadBufferBytesAreUnobservable := by
  intro i s s' t t' hinv hsame he he'
  obtain ⟨f, hf, hexec⟩ := exists_meaning i
  obtain rfl : f s = t := Host.Outcome.next.inj ((hexec s).symm.trans he)
  obtain rfl : f s' = t' := Host.Outcome.next.inj ((hexec s').symm.trans he')
  obtain ⟨hs', hlive⟩ := sameButDeadBuffer_iff.mp hsame
  have hrelated := hf.related hlive hinv.lasting
  rw [← hs'] at hrelated
  exact ⟨hrelated, hrelated.lastRead⟩

end Sys2Proof.Machine
end

section
/-! The mapper (20_memory.md R70, R71). In either layout the tracks of an image stand in a rank order, and within it the
sectors of a legal geometry: the offset is the sector size times a number in mixed radix, whose digits are the sector,
then side and track (interleaved) or track and side (sequential). -/

namespace Sys2Proof.Machine

/-! Numbers in mixed radix. -/

/-- A number with its last digit below `n` and the rest below `m` is below `m * n`. -/
theorem mul_add_lt_mul {a b m n : Int} (ha : a < m) (hb : 0 ≤ b ∧ b < n) : a * n + b < m * n := by
  have hn : 0 ≤ n := by omega
  calc a * n + b < a * n + n := by omega
    _ = (a + 1) * n := by ring
    _ ≤ m * n := mul_le_mul_of_nonneg_right ha hn

/-- The last digit and the rest are determined by the number. -/
theorem digits_eq_of_mul_add_eq {a a' b b' n : Int} (hb : 0 ≤ b ∧ b < n) (hb' : 0 ≤ b' ∧ b' < n)
    (h : a * n + b = a' * n + b') : a = a' ∧ b = b' := by
  have hn : 0 < n := by omega
  have digits (x : Int) {y : Int} (hy : 0 ≤ y ∧ y < n) : (x * n + y) / n = x ∧ (x * n + y) % n = y :=
    (Int.ediv_emod_unique hn).mpr ⟨by ring, hy⟩
  obtain ⟨hdiv, hmod⟩ := digits a hb
  obtain ⟨hdiv', hmod'⟩ := digits a' hb'
  exact ⟨hdiv.symm.trans (h ▸ hdiv'), hmod.symm.trans (h ▸ hmod')⟩

/-- Two blocks of `size` bytes at multiples of `size` that overlap are the same block. -/
theorem block_eq_of_overlap {size i j : Int} (hij : size * i < size * j + size) (hji : size * j < size * i + size) :
    i = j := by
  have hsize : 0 < size := by omega
  have hi : i < j + 1 := lt_of_mul_lt_mul_left (by linarith) hsize.le
  have hj : j < i + 1 := lt_of_mul_lt_mul_left (by linarith) hsize.le
  omega

/-! `findOffset`, case by case. -/

theorem findOffset_of_invalidHead {d : Descriptor} {side : Int} (h : mapSide d side > d.heads) (track sector : Int) :
    findOffset d track side sector = .error .invalidHead := if_pos h

theorem findOffset_of_sectorBelowFirst {d : Descriptor} {side sector : Int} (hside : mapSide d side ≤ d.heads)
    (h : sector < d.firstSectorNumber) (track : Int) :
    findOffset d track side sector = .error .sectorBelowFirst := by
  rw [findOffset, if_neg (not_lt.mpr hside), if_pos h]

theorem findOffset_of_inRange {d : Descriptor} {side sector : Int} (hside : mapSide d side ≤ d.heads)
    (hsector : d.firstSectorNumber ≤ sector) (track : Int) :
    findOffset d track side sector = .ok (imageOffset d (mapTrack d track side) (mapSide d side) sector) := by
  rw [findOffset, if_neg (not_lt.mpr hside), if_neg (not_lt.mpr hsector)]

/-- Where the mapper answers an offset, its two checks passed and the formula gives it. -/
theorem findOffset_eq_ok_iff {d : Descriptor} {track side sector off : Int} :
    findOffset d track side sector = .ok off ↔
      mapSide d side ≤ d.heads ∧ d.firstSectorNumber ≤ sector ∧
        imageOffset d (mapTrack d track side) (mapSide d side) sector = off := by
  rcases lt_or_ge (d.heads : Int) (mapSide d side) with hside | hside
  · simp [findOffset_of_invalidHead hside, not_le.mpr hside]
  rcases lt_or_ge sector d.firstSectorNumber with hsector | hsector
  · simp [findOffset_of_sectorBelowFirst hside hsector, not_le.mpr hsector]
  · simp [findOffset_of_inRange hside hsector, hside, hsector]

/-! The layouts. -/

theorem imageOffset_of_interleaved {d : Descriptor} (h : d.interleaved = true) (track' side' sector : Int) :
    imageOffset d track' side' sector =
      trackBytes d * (track' * d.heads) + trackBytes d * side' + d.sectorSize * (sector - d.firstSectorNumber) :=
  if_pos h

theorem imageOffset_of_sequential {d : Descriptor} (h : d.interleaved = false) (track' side' sector : Int) :
    imageOffset d track' side' sector =
      trackBytes d * track' + trackBytes d * d.tracks * side' + d.sectorSize * (sector - d.firstSectorNumber) := by
  simp only [imageOffset, h, Bool.false_eq_true, if_false]

/-- How many tracks of an image stand before this one: the two sides of a track follow each other in the interleaved
layout, the two sides of the disk in the sequential one. -/
def trackRank (d : Descriptor) (track' side' : Int) : Int :=
  if d.interleaved then track' * d.heads + side' else side' * d.tracks + track'

/-- The offset formula of both layouts: whole sectors of whole tracks, then whole sectors of this track. -/
theorem imageOffset_eq_sectorSize_mul (d : Descriptor) (track' side' sector : Int) :
    imageOffset d track' side' sector =
      d.sectorSize * (trackRank d track' side' * d.sectorsPerTrack + (sector - d.firstSectorNumber)) := by
  cases h : d.interleaved
  · simp only [imageOffset_of_sequential h, trackRank, h, trackBytes, Bool.false_eq_true, if_false]
    ring
  · simp only [imageOffset_of_interleaved h, trackRank, h, trackBytes, if_true]
    ring

theorem trackRank_nonneg (d : Descriptor) {track' side' : Int} (ht : 0 ≤ track') (hs : 0 ≤ side') :
    0 ≤ trackRank d track' side' := by
  unfold trackRank
  split <;> positivity

/-- The tracks of a geometry have ranks below its number of tracks. -/
theorem trackRank_lt {d : Descriptor} {track' side' : Int} (ht : 0 ≤ track' ∧ track' < d.tracks)
    (hs : 0 ≤ side' ∧ side' < d.heads) : trackRank d track' side' < d.heads * d.tracks := by
  unfold trackRank
  split
  · exact mul_comm (d.heads : Int) d.tracks ▸ mul_add_lt_mul ht.2 hs
  · exact mul_add_lt_mul hs.2 ht

/-- Two tracks of a geometry have different ranks. -/
theorem trackRank_inj {d : Descriptor} {t t' h h' : Int} (ht : 0 ≤ t ∧ t < d.tracks) (ht' : 0 ≤ t' ∧ t' < d.tracks)
    (hh : 0 ≤ h ∧ h < d.heads) (hh' : 0 ≤ h' ∧ h' < d.heads) (heq : trackRank d t h = trackRank d t' h') :
    t = t' ∧ h = h' := by
  unfold trackRank at heq
  split at heq
  · exact digits_eq_of_mul_add_eq hh hh' heq
  · exact (digits_eq_of_mul_add_eq ht ht' heq).symm

/-! Swap and reversal. -/

theorem mapSide_of_not_swapped {d : Descriptor} (h : d.sidesSwapped = false) (side : Int) : mapSide d side = side := by
  simp only [mapSide, h, Bool.false_eq_true, if_false]

theorem mapTrack_of_not_reversed {d : Descriptor} (h0 : d.reverseSide0 = false) (h1 : d.reverseSide1 = false)
    (track side : Int) : mapTrack d track side = track := by
  simp only [mapTrack, h0, h1, ite_self, Bool.false_eq_true, if_false]

/-- The swap exchanges the sides 0 and 1, so that no side becomes negative. -/
theorem mapSide_nonneg (d : Descriptor) (side : Bool) : 0 ≤ mapSide d side.toNat := by
  have := side.toNat_le
  unfold mapSide
  split <;> omega

/-- A reversed track counts down from `tracks`, so that a track of the drive does not become negative. -/
theorem mapTrack_nonneg {d : Descriptor} {track : Int} (h : 0 ≤ track ∧ track ≤ d.tracks) (side : Int) :
    0 ≤ mapTrack d track side := by
  unfold mapTrack
  split <;> omega

/-- Without swap and reversal the mapper gives every legal sector its place in the rank order. -/
theorem findOffset_of_legal {d : Descriptor} {track side sector : Int} (hswap : d.sidesSwapped = false)
    (h0 : d.reverseSide0 = false) (h1 : d.reverseSide1 = false) (h : LegalSector d track side sector) :
    findOffset d track side sector =
      .ok (d.sectorSize * (trackRank d track side * d.sectorsPerTrack + (sector - d.firstSectorNumber))) := by
  have hside : mapSide d side ≤ d.heads := (mapSide_of_not_swapped hswap side).trans_le h.side.2.le
  rw [findOffset_of_inRange hside h.sector.1, imageOffset_eq_sectorSize_mul, mapSide_of_not_swapped hswap,
    mapTrack_of_not_reversed h0 h1]

theorem LegalSector.sector_digit {d : Descriptor} {track side sector : Int} (h : LegalSector d track side sector) :
    0 ≤ sector - d.firstSectorNumber ∧ sector - d.firstSectorNumber < d.sectorsPerTrack := by
  have := h.sector
  omega

/-! The statements. -/

/-- Settles O54: the mapper's three cases, the last one by layout. -/
theorem mapperFollowsTheFormula : Obligations.MapperFollowsTheFormula := by
  intro d track side sector side' track' hside htrack
  obtain rfl : side' = mapSide d side := hside
  obtain rfl : track' = mapTrack d track side := htrack
  refine ⟨fun h => findOffset_of_invalidHead h _ _, fun h hs => findOffset_of_sectorBelowFirst h hs _,
    fun h hs hl => ?_, fun h hs hl => ?_⟩
  · rw [findOffset_of_inRange h hs, imageOffset_of_interleaved hl, trackBytes]
  · rw [findOffset_of_inRange h hs, imageOffset_of_sequential hl, trackBytes]

/-- Settles O55: the head stands on a track of the drive, so every digit of the sector's place is nonnegative. -/
theorem sectorOffsetsAreNeverNegative : Obligations.SectorOffsetsAreNeverNegative := by
  intro s a side off hinv htrack hoff
  obtain ⟨-, hsector, rfl⟩ := findOffset_eq_ok_iff.mp hoff
  have hhead : 0 ≤ (s.trackReg.toNat : Int) ∧ (s.trackReg.toNat : Int) ≤ (s.drive a).desc.tracks := by
    have := (hinv.drives a).onTrack
    omega
  have hrank := trackRank_nonneg (s.drive a).desc (mapTrack_nonneg hhead side.toNat)
    (mapSide_nonneg (s.drive a).desc side)
  have hdigit := sub_nonneg.mpr hsector
  rw [imageOffset_eq_sectorSize_mul]
  positivity

/-- Settles O56: the sector's place is below the number of sectors of the image. -/
theorem legalSectorsLieInsideTheImage : Obligations.LegalSectorsLieInsideTheImage := by
  intro d track side sector hswap h0 h1 h
  have hrank := trackRank_nonneg d h.track.1 h.side.1
  have hdigit := h.sector_digit.1
  have hplace : trackRank d track side * d.sectorsPerTrack + (sector - d.firstSectorNumber) + 1 ≤
      d.heads * d.tracks * d.sectorsPerTrack := mul_add_lt_mul (trackRank_lt h.track h.side) h.sector_digit
  have hbytes := mul_le_mul_of_nonneg_left hplace (Int.natCast_nonneg d.sectorSize)
  exact ⟨_, findOffset_of_legal hswap h0 h1 h, by positivity, by linarith only [hbytes]⟩

/-- Settles O57: overlapping sectors have the same place, and its digits are track, side and sector. -/
theorem legalSectorsDoNotOverlap : Obligations.LegalSectorsDoNotOverlap := by
  intro d t1 h1 r1 t2 h2 r2 off1 off2 hswap hrev0 hrev1 legal1 legal2 hoff1 hoff2 h12 h21
  obtain rfl := Except.ok.inj ((findOffset_of_legal hswap hrev0 hrev1 legal1).symm.trans hoff1)
  obtain rfl := Except.ok.inj ((findOffset_of_legal hswap hrev0 hrev1 legal2).symm.trans hoff2)
  obtain ⟨hrank, hsector⟩ :=
    digits_eq_of_mul_add_eq legal1.sector_digit legal2.sector_digit (block_eq_of_overlap h12 h21)
  obtain ⟨htrack, hside⟩ := trackRank_inj legal1.track legal2.track legal1.side legal2.side hrank
  exact ⟨htrack, hside, sub_left_injective hsector⟩

end Sys2Proof.Machine
end

section
/-! What the image gives back (20_memory.md R74), and the round trip of a sector: the last byte of a sector write hands
the buffer to the file, and a ReadSector that follows brings the same bytes back. -/

namespace Sys2Proof.Machine

/-- Settles O58: the write leaves its bytes in the file, whose size it keeps. -/
theorem committedBytesReadBack : Obligations.CommittedBytesReadBack := by
  intro s u p off vs hwf hok hfiles hdraw
  obtain ⟨m, hm, hoff, hsize, -⟩ := State.memWriteOk_iff.mp hok
  obtain ⟨m', hm', hwritten⟩ := State.memWritten_ok_find hok
  obtain rfl : m = m' := Option.some.inj (hm.symm.trans hm')
  have hback := Memory.readBytes_writeBytes (filesFind_wf hwf hm) (a := off.toNat) (bs := vs) (by omega)
  exact State.memRead_eq_some.mpr
    ⟨_, hfiles ▸ hwritten, hoff, (Memory.writeBytes_size ..).symm ▸ hsize, hdraw, hback.symm⟩

/-! What the checks of a command look at, across an image access, a finished commit and the prologue. -/

@[simp] theorem State.memWritten_activeMedia (s : State) (p : String) (off : Int) (vs : List Byte) :
    (s.memWritten p off vs).activeMedia = s.activeMedia := by
  unfold State.memWritten
  (repeat' split) <;> rfl

@[simp] theorem State.commitDone_activeMedia (s : State) : s.commitDone.activeMedia = s.activeMedia := rfl

/-- A Type II or III command calls the mapper with the side it has just sampled (40_command_decoder.md R116). -/
theorem State.prologue_sectorOffset (s : State) (t : CommandType) (side : Bool) (d : Drive) :
    (s.prologue t (some side)).sectorOffset d =
      findOffset d.desc s.trackReg.toNat side.toNat s.sectorReg.toNat := rfl

@[simp] theorem State.prologue_memRead (s : State) (t : CommandType) (b : Option Bool) (p : String) (off : Int)
    (n : Nat) : (s.prologue t b).memRead p off n = s.memRead p off n := rfl

/-! The write half. -/

/-- The bytes a write transfer has collected when `v` is its last one (45_transfer_engine.md R205). -/
def State.collected (s : State) (v : Byte) : List Byte := (s.buf.set s.position v).take s.used

theorem State.Inv.collected_length {s : State} (h : s.Inv) (v : Byte) : (s.collected v).length = s.used := by
  have := h.buffer
  simp only [State.collected, List.length_take, List.length_set]
  omega

/-- The first byte of what a transfer of at least one byte has collected stands at the front of the buffer. -/
theorem State.collected_getD_zero {s : State} (h : 0 < s.used) (v : Byte) :
    (s.collected v).getD 0 0 = (s.buf.set s.position v).getD 0 0 := by
  rw [State.collected, List.getD_eq_getElem?_getD, List.getD_eq_getElem?_getD, List.getElem?_take_of_lt h]

/-- The last byte of a sector write is stored, and the sector commits (45_transfer_engine.md R204, R205). -/
theorem State.putData_of_lastByte {s : State} (hx : s.xfer = .writeSectorIn) (hd : s.flags.dataRequest = true)
    (hlast : s.position + 1 = s.used) (v : Byte) :
    s.putData v = ((s.loadData v).storeByte v).commitWriteSector := by
  have hput : s.putData v = (s.loadData v).acceptByte v := by
    rw [State.putData, if_pos (.inl hx), if_pos hd]
  have haccept : (s.loadData v).acceptByte v = ((s.loadData v).storeByte v).commitWriteSector := by
    unfold State.acceptByte
    exact (if_pos hlast).trans (if_pos hx)
  exact hput.trans haccept

/-- A commit whose checks pass and whose write returns `Ok` (42_type2_commands.md R154). -/
theorem State.commitWriteSector_of_ok {s : State} {d : Drive} {p : String} {off : Int}
    (hmedia : s.activeMedia = some (d, p)) (hprotect : d.desc.writeProtect = false)
    (htrack : s.trackReg.toNat = d.currentTrack) (hoff : s.sectorOffset d = .ok off)
    (hok : s.memWriteOk p off (s.buf.take s.used).length = true) :
    s.commitWriteSector = (s.memWritten p off (s.buf.take s.used)).commitDone := by
  simp only [State.commitWriteSector, hmedia, hprotect, htrack, hoff, hok, ne_eq, not_true_eq_false,
    Bool.false_eq_true, if_false, if_true]

/-- The last byte of a sector write whose checks pass and whose write returns `Ok`: the collected bytes go to the file
at the mapper's offset. -/
theorem writeData_commits {s t : State} {v : Byte} {d : Drive} {p : String} {off : Int}
    (hx : s.xfer = .writeSectorIn) (hd : s.flags.dataRequest = true) (hlast : s.position + 1 = s.used)
    (hmedia : s.activeMedia = some (d, p)) (hprotect : d.desc.writeProtect = false)
    (htrack : s.trackReg.toNat = d.currentTrack) (hoff : s.sectorOffset d = .ok off)
    (hok : s.memWriteOk p off (s.collected v).length = true) (he : exec (.writeData v) s = .next t) :
    t = (((s.loadData v).storeByte v).memWritten p off (s.collected v)).commitDone := by
  obtain rfl : s.putData v = t := Host.Outcome.next.inj he
  rw [State.putData_of_lastByte hx hd hlast]
  exact State.commitWriteSector_of_ok (s := (s.loadData v).storeByte v) hmedia hprotect htrack hoff hok

/-! The read half. -/

/-- A ReadSector whose checks pass and whose read returns bytes (42_type2_commands.md R150). -/
theorem State.readSectorBody_of_ok {s : State} {d : Drive} {p : String} {off : Int} {bytes : List Byte}
    (hmedia : s.readyMedia = some (d, p)) (htrack : s.trackReg.toNat = d.currentTrack)
    (hoff : s.sectorOffset d = .ok off) (hread : s.memRead p off d.desc.sectorSize = some bytes) :
    s.readSectorBody = (s.ioTaken.fillBuffer bytes).armRead.notBusy := by
  simp only [State.readSectorBody, hmedia, htrack, hoff, hread, ne_eq, not_true_eq_false, if_false]

/-- `s` streams `bytes` to the guest, the first of them already in `DR` (45_transfer_engine.md R201). -/
def State.Streams (s : State) (bytes : List Byte) : Prop :=
  s.xfer = .readOut ∧ s.used = bytes.length ∧ s.dataReg = bytes.getD 0 0 ∧ s.buf.take s.used = bytes

theorem State.streams_of_fillBuffer (s : State) {bytes : List Byte} (h : bytes ≠ []) :
    (s.fillBuffer bytes).armRead.notBusy.Streams bytes := by
  obtain ⟨b, rest, rfl⟩ := List.exists_cons_of_ne_nil h
  exact ⟨rfl, rfl, rfl, List.take_left' rfl⟩

/-- A ReadSector whose checks pass streams the bytes at the mapper's offset. -/
theorem readSector_streams {s u : State} {side : Bool} {d : Drive} {p : String} {off : Int} {bytes : List Byte}
    (hbusy : s.flags.busy = false) (hmedia : s.readyMedia = some (d, p)) (htrack : s.trackReg.toNat = d.currentTrack)
    (hoff : findOffset d.desc s.trackReg.toNat side.toNat s.sectorReg.toNat = .ok off)
    (hread : s.memRead p off d.desc.sectorSize = some bytes) (hbytes : bytes ≠ [])
    (he : exec (.readSector side) s = .next u) : u.Streams bytes := by
  obtain rfl : s.command .typeII (some side) State.readSectorBody = u := Host.Outcome.next.inj he
  rw [State.command_of_idle hbusy,
    State.readSectorBody_of_ok ((s.prologue_readyMedia ..).trans hmedia) htrack
      ((s.prologue_sectorOffset ..).trans hoff) ((s.prologue_memRead ..).trans hread)]
  exact State.streams_of_fillBuffer _ hbytes

/-! The round trip. -/

/-- Settles O59: the commit leaves the collected bytes in the file and every operand of the mapper as it was, so the
read that follows passes the same checks and finds those bytes at the same offset. -/
theorem writtenSectorIsReadBack : Obligations.WrittenSectorIsReadBack := by
  intro v s t u d p off hinv hx hrequest hlast hmedia hprotect htrack hoff hok hsize hdraw ht hu
  have hlength := hinv.collected_length v
  rw [← hlength] at hok
  obtain rfl := writeData_commits hx hrequest hlast hmedia hprotect htrack hoff hok ht
  have hready :
      (((s.loadData v).storeByte v).memWritten p off (s.collected v)).commitDone.readyMedia = some (d, p) := by
    refine State.readyMedia_eq_some.mpr ⟨?_, ?_⟩
    · rw [State.commitDone_activeMedia, State.memWritten_activeMedia]
      exact hmedia
    · rw [State.commitDone_readyDelay, State.memWritten_readyDelay]
      exact (hinv.writing (.inl hx)).2.2.le
  have hread := committedBytesReadBack ((s.loadData v).storeByte v) _ p off (s.collected v) hinv.files hok
    (State.commitDone_files _) hdraw
  rw [hlength, hsize] at hread
  obtain ⟨hxfer, hused, hfirst, hbuf⟩ :=
    readSector_streams (by simp) hready (by simpa [State.storeByte, State.loadData] using htrack)
      (by simpa [State.storeByte, State.loadData] using hoff) hread (List.ne_nil_of_length_pos (by omega)) hu
  exact ⟨hxfer, hused.trans hlength, hfirst.trans (State.collected_getD_zero (by omega) v), hbuf⟩

end Sys2Proof.Machine
end

section
/-! The two encoding layers (30_encoding.md): the decoder undoes the encoder, and the encoder undoes the decoder but
for the ignored bits, so a command byte acts through its significant bits alone. -/

namespace Sys2Proof.Machine

/-! The inner layer: a command byte is its top nibble, one operand bit and bits that are ignored. -/

theorem topNibble_lt (c : Byte) : topNibble c < 16 := Nat.div_lt_of_lt_mul c.isLt

theorem and_F0_eq_topNibble (c : Byte) : c &&& 0xF0#8 = BitVec.ofNat 8 (16 * topNibble c) := by
  have hshift : c &&& 0xF0#8 = (c >>> 4) <<< 4 := by
    ext i hi
    interval_cases i <;> simp
  have hlt := topNibble_lt c
  apply BitVec.eq_of_toNat_eq
  simp only [hshift, BitVec.toNat_shiftLeft, BitVec.toNat_ushiftRight, BitVec.toNat_ofNat, Nat.shiftLeft_eq,
    Nat.shiftRight_eq_div_pow, topNibble]
  omega

/-- A base taken from the top nibble, with bit `i` copied from the byte, is the byte masked to those bits. -/
theorem base_or_bit (c : Byte) (i : Nat) :
    BitVec.ofNat 8 (16 * topNibble c) ||| (if c.getLsbD i then BitVec.twoPow 8 i else 0x00#8) =
      c &&& (0xF0#8 ||| BitVec.twoPow 8 i) := by
  rw [← and_F0_eq_topNibble, ← BitVec.and_twoPow, BitVec.and_or_distrib_left]

/-- Of a Type I byte, the top nibble and LoadHead are significant (30_encoding.md R92). -/
theorem typeIByte_topNibble_loadHeadBit (c : Byte) :
    typeIByte (BitVec.ofNat 8 (16 * topNibble c)) (loadHeadBit c) = c &&& ~~~0x07#8 :=
  base_or_bit c 3

/-- Of a Type II or III byte, the top nibble and the side are significant (30_encoding.md R93, R94). -/
theorem sideByte_topNibble_sideBit (c : Byte) :
    sideByte (BitVec.ofNat 8 (16 * topNibble c)) (sideBit c) = c &&& ~~~0x0D#8 :=
  base_or_bit c 1

theorem encodeCommand_decodeCommand_typeI {c : Byte} (h : topNibble c < 8) :
    encodeCommand (decodeCommand c) = typeIByte (BitVec.ofNat 8 (16 * topNibble c)) (loadHeadBit c) := by
  unfold decodeCommand
  generalize topNibble c = n at h
  interval_cases n <;> rfl

theorem encodeCommand_decodeCommand_typeIV {c : Byte} (h : topNibble c = 13) :
    encodeCommand (decodeCommand c) = BitVec.ofNat 8 (16 * topNibble c) := by
  simp only [decodeCommand, h, encodeCommand]

theorem encodeCommand_decodeCommand_side {c : Byte} (h8 : 8 ≤ topNibble c) (h13 : topNibble c ≠ 13) :
    encodeCommand (decodeCommand c) = sideByte (BitVec.ofNat 8 (16 * topNibble c)) (sideBit c) := by
  have hlt := topNibble_lt c
  unfold decodeCommand
  generalize topNibble c = n at h8 h13 hlt
  obtain hn | rfl | rfl : n < 13 ∨ n = 14 ∨ n = 15 := by omega
  · interval_cases n <;> rfl
  · rfl
  · rfl

/-- One case for each of the three families of ignored bits (30_encoding.md R100). -/
theorem encodeCommand_decodeCommand (c : Byte) : encodeCommand (decodeCommand c) = c &&& ~~~ignoredBits c := by
  unfold ignoredBits
  split
  next h => rw [encodeCommand_decodeCommand_typeI h, typeIByte_topNibble_loadHeadBit]
  next h8 =>
    split
    next h13 => rw [encodeCommand_decodeCommand_typeIV h13, ← and_F0_eq_topNibble]; rfl
    next h13 => rw [encodeCommand_decodeCommand_side (Nat.le_of_not_lt h8) h13, sideByte_topNibble_sideBit]

theorem ignoredBits_congr {c c' : Byte} (h : topNibble c = topNibble c') : ignoredBits c = ignoredBits c' := by
  simp only [ignoredBits, h]

/-- A command has one operand bit, or none: each of the two bytes of a row decodes to its own command. -/
theorem decodeCommand_encodeCommand (k : Command) : decodeCommand (encodeCommand k) = k := by
  cases k with
  | forceInterrupt => rfl
  | _ b => cases b <;> rfl

theorem decodeCommand_and_not_ignoredBits (c : Byte) : decodeCommand (c &&& ~~~ignoredBits c) = decodeCommand c := by
  rw [← encodeCommand_decodeCommand, decodeCommand_encodeCommand]

/-! Both layers. -/

@[simp] theorem encode_toInstr (k : Command) : encode k.toInstr = .command (encodeCommand k) := by
  cases k <;> rfl

theorem decode_encode (i : Instr) : decode (encode i) = i := by
  cases i with
  | readStatus | readTrackRegister | readSectorRegister | readData | readDrivePort | readUnmapped
  | writeCommand | writeTrackRegister | writeSectorRegister | writeData | writeDriveSelect | writeUnmapped => rfl
  | _ => simp only [encode, decode, decodeCommand_encodeCommand, Command.toInstr]

theorem encode_decode_command (c : Byte) : encode (decode (.command c)) = .command (c &&& ~~~ignoredBits c) := by
  rw [decode, encode_toInstr, encodeCommand_decodeCommand]

/-- Each of the sixteen access words, with any data byte (30_encoding.md R90). -/
theorem encode_decode_access (a : AccessWord) (v : Byte) :
    encode (decode (.access a v)) =
      .access (if a.getLsbD 2 then a &&& 0b1110#4 else a) (if a.getLsbD 3 then v else 0) := by
  obtain ⟨n, hn, rfl⟩ : ∃ n < 16, BitVec.ofNat 4 n = a := ⟨a.toNat, a.isLt, by simp⟩
  interval_cases n <;> rfl

/-- Settles O1: both layers are undone, the inner one by `decodeCommand_encodeCommand`. -/
theorem decodeInvertsEncode : Obligations.DecodeInvertsEncode :=
  fun i _ => decode_encode i

/-- Settles O3: a byte decodes like its significant bits, and it is run as the command it decodes to. -/
theorem commandBytesIgnoreUnusedBits : Obligations.CommandBytesIgnoreUnusedBits := by
  intro c c' s hnibble hsignificant
  have hdecode : decodeCommand c = decodeCommand c' := by
    rw [← decodeCommand_and_not_ignoredBits c, hsignificant, ignoredBits_congr hnibble,
      decodeCommand_and_not_ignoredBits]
  rw [exec_writeCommand_toInstr, exec_writeCommand_toInstr, hdecode]

/-- Settles O2: one conjunct for each layer. -/
theorem encodeInvertsDecode : Obligations.EncodeInvertsDecode :=
  ⟨encode_decode_command, encode_decode_access⟩

/-- Settles O4: each word but the last is the encoding of its instruction; the last has the higher of the two offsets
of the drive port. -/
theorem wordsOfTheSpecDecode : Obligations.WordsOfTheSpecDecode :=
  ⟨decode_encode (.restore true), decode_encode (.seek false), decode_encode (.stepInUpdate true),
    decode_encode (.readSector true), decode_encode (.writeSector false), decode_encode (.readAddress true),
    decode_encode .forceInterrupt, decode_encode (.writeTrack false), decode_encode .readStatus,
    decode_encode (.writeCommand 0xD0#8), decode_encode (.writeData 0x5A#8), rfl⟩

/-! The drive-select value (30_encoding.md R102). -/

theorem getLsbD_eq_false_of_and_0F_eq_zero {v : Byte} (h : v &&& 0x0F#8 = 0#8) (j : Fin 4) :
    v.getLsbD j.val = false := by
  have hbit : (v &&& 0x0F#8).getLsbD j.val = false := by rw [h, BitVec.getLsbD_zero]
  have hmask : ∀ j : Fin 4, (0x0F#8).getLsbD j.val = true := by decide
  rwa [BitVec.getLsbD_and, hmask, Bool.and_true] at hbit

theorem decodeSelect_eq_none {v : Byte} (h : ∀ j : Fin 4, v.getLsbD j.val = false) : decodeSelect v = none := by
  have hskip : ∀ j : Fin 4, ¬ v.getLsbD j.val = true := fun j => by simp [h j]
  exact (if_neg (hskip 0)).trans <| (if_neg (hskip 1)).trans <| (if_neg (hskip 2)).trans <| if_neg (hskip 3)

theorem decodeSelect_eq_some {v : Byte} {i : Fin 4} (hi : v.getLsbD i.val = true)
    (hlower : ∀ j : Nat, j < i.val → v.getLsbD j = false) : decodeSelect v = some i := by
  have hskip : ∀ j : Nat, j < i.val → ¬ v.getLsbD j = true := fun j hj => by simp [hlower j hj]
  match i with
  | 0 => exact if_pos hi
  | 1 =>
    rw [decodeSelect, if_neg (hskip 0 (by decide))]
    exact if_pos hi
  | 2 =>
    rw [decodeSelect, if_neg (hskip 0 (by decide)), if_neg (hskip 1 (by decide))]
    exact if_pos hi
  | 3 =>
    rw [decodeSelect, if_neg (hskip 0 (by decide)), if_neg (hskip 1 (by decide)), if_neg (hskip 2 (by decide))]
    exact if_pos hi

theorem exec_writeDriveSelect (v : Byte) (s : State) :
    exec (.writeDriveSelect v) s = .next { s with activeDrive := decodeSelect v } := rfl

/-- Settles O5: the write sets `active_drive` to the decoded value and nothing else. -/
theorem driveSelectTakesTheLowestBit : Obligations.DriveSelectTakesTheLowestBit := by
  intro v s
  refine ⟨fun hnone => ?_, fun i hi hlower => ?_⟩
  · rw [exec_writeDriveSelect, decodeSelect_eq_none (getLsbD_eq_false_of_and_0F_eq_zero hnone)]
  · rw [exec_writeDriveSelect, decodeSelect_eq_some hi hlower]

end Sys2Proof.Machine
end

section
/-! The command port (40_command_decoder.md): an instruction that issues a command runs that command, and a command is
a gated Type I frame, a gated Type II or III body, or ForceInterrupt. -/

namespace Sys2Proof.Machine

/-! The command an instruction issues. -/

theorem toInstr_injective {k k' : Command} (h : k.toInstr = k'.toInstr) : k = k' := by
  have hbyte : encodeCommand k = encodeCommand k' := by simpa using congrArg encode h
  rw [← decodeCommand_encodeCommand k, hbyte, decodeCommand_encodeCommand]

/-- No instruction of the outer layer is a command of the inner one. -/
theorem toInstr_ne_of_encode_access {i : Instr} {a : AccessWord} {v : Byte} (h : encode i = .access a v)
    (k : Command) : i ≠ k.toInstr := by
  rintro rfl
  simp at h

theorem issues_unique {i : Instr} {k k' : Command} (h : issues i k) (h' : issues i k') : k = k' := by
  rcases h with rfl | ⟨c, rfl, rfl⟩
  · rcases h' with h' | ⟨c', h', -⟩
    · exact toInstr_injective h'
    · exact absurd h'.symm (toInstr_ne_of_encode_access rfl k)
  · rcases h' with h' | ⟨c', h', rfl⟩
    · exact absurd h' (toInstr_ne_of_encode_access rfl k')
    · cases h'
      rfl

theorem exec_of_issues {i : Instr} {k : Command} (h : issues i k) (s : State) : exec i s = exec k.toInstr s := by
  rcases h with rfl | ⟨c, rfl, rfl⟩
  · rfl
  · exact exec_writeCommand_toInstr c s

/-! What a command runs. -/

/-- The side a Type II or III command samples (40_command_decoder.md R116). -/
def sampledSide : Command → Option Bool
  | .readSector b | .readSectorMulti b | .writeSector b | .writeSectorMulti b
  | .readAddress b | .readTrack b | .writeTrack b => some b
  | _ => none

theorem sampledSide_decodeCommand {c : Byte}
    (h : commandType (decodeCommand c) = .typeII ∨ commandType (decodeCommand c) = .typeIII) :
    sampledSide (decodeCommand c) = some (sideBit c) := by
  unfold decodeCommand at h ⊢
  split at h <;> simp_all [commandType, sampledSide]

theorem DataBody.exec_toInstr {k : Command} {body : State → State} (hb : DataBody k body) (s : State) :
    exec k.toInstr s = .next (s.command (commandType k) (sampledSide k) body) := by
  cases hb <;> rfl

/-- All that a command can be. -/
inductive CommandRun (k : Command) : Prop where
  | typeI (load : Bool) (body : State → State) (isTypeI : commandType k = .typeI) (isBody : TypeIBody body)
      (runs : ∀ s, exec k.toInstr s = .next (s.typeI load body))
  | data (body : State → State) (isBody : DataBody k body)
  | forceInterrupt (isForce : k = .forceInterrupt)

theorem commandRun (k : Command) : CommandRun k := by
  obtain ⟨f, hf, hexec⟩ := exists_meaning_command k (.inl rfl)
  have hi : issues k.toInstr k := .inl rfl
  generalize hk : k.toInstr = i at hf hi hexec
  cases hf with
  | typeI load issued isTypeI isBody =>
    obtain rfl := issues_unique hi issued
    exact .typeI load _ isTypeI isBody (hk ▸ hexec)
  | data side issued isBody =>
    obtain rfl := issues_unique hi issued
    exact .data _ isBody
  | forceInterrupt issued => exact .forceInterrupt (issues_unique hi issued)
  | _ => exact absurd hk.symm (toInstr_ne_of_encode_access rfl k)

theorem State.typeI_of_busy {s : State} (h : s.flags.busy = true) (load : Bool) (body : State → State) :
    s.typeI load body = s.logged .droppedWhileBusy :=
  State.command_of_busy h _ _ _

/-- Settles O15: each command but ForceInterrupt passes the busy gate, which drops it. -/
theorem commandWhileBusyOnlyLogs : Obligations.CommandWhileBusyOnlyLogs := by
  intro i k s hi hk hbusy
  rw [exec_of_issues hi]
  cases commandRun k with
  | typeI load body _ _ runs =>
    rw [runs, State.typeI_of_busy hbusy]
    rfl
  | data body isBody =>
    rw [isBody.exec_toInstr, State.command_of_busy hbusy]
    rfl
  | forceInterrupt isForce => exact absurd isForce hk

/-! What an accepted command leaves in `last_type` and `side`. -/

theorem sampledSide_eq_none {k : Command} (h : commandType k = .typeI ∨ commandType k = .typeIV) :
    sampledSide k = none := by
  cases k <;> simp_all [commandType, sampledSide]

theorem armWriteBody_lastType (s : State) (m : Xfer) : (s.armWriteBody m).lastType = s.lastType := by
  rcases s.armWriteBody_cases m with ⟨-, he⟩ | ⟨_, _, -, ⟨-, he⟩ | ⟨-, he⟩⟩ <;> simp [he]

theorem DataBody.lastType {k : Command} {body : State → State} (hb : DataBody k body) (s : State) :
    (body s).lastType = s.lastType := by
  cases hb with
  | readSector => rcases s.readSectorBody_cases with ⟨_, he⟩ | he | ⟨_, _, _, _, -, -, -, -, he⟩ <;> simp [he]
  | readSectorMulti | writeSectorMulti => rfl
  | writeSector | writeTrack => exact armWriteBody_lastType s _
  | readAddress => rcases s.readAddressBody_cases with he | ⟨_, _, -, he⟩ <;> exact he ▸ rfl
  | readTrack => rcases s.readTrackBody_cases with he | he <;> simp [he]

theorem DataBody.side {k : Command} {body : State → State} (hb : DataBody k body) (s : State) :
    (body s).side = s.side := by
  obtain ⟨_, -, kept⟩ := hb.controls s
  exact kept.side

/-- The prologue sets both, and no body changes them (40_command_decoder.md R112, R116; 44_type4_command.md R190). -/
theorem exec_toInstr_accepted (k : Command) {s : State} (hbusy : s.flags.busy = false) :
    ∃ t, exec k.toInstr s = .next t ∧ t.lastType = commandType k ∧ t.side = (sampledSide k).getD s.side := by
  cases commandRun k with
  | typeI load body isTypeI isBody runs =>
    refine ⟨_, runs s, ?_⟩
    rw [isTypeI, sampledSide_eq_none (.inl isTypeI)]
    rcases s.typeI_cases load isBody with ⟨hbusy', -⟩ | ⟨-, _, _, _, _, -, he⟩
    · simp [hbusy] at hbusy'
    · exact he ▸ ⟨rfl, rfl⟩
  | data body isBody =>
    refine ⟨_, isBody.exec_toInstr s, ?_⟩
    rw [State.command_of_idle hbusy]
    exact ⟨isBody.lastType _, isBody.side _⟩
  | forceInterrupt isForce =>
    subst isForce
    exact ⟨_, rfl, rfl, rfl⟩

/-- Settles O16: the byte runs its command's own meaning, and bit 1 of the byte is the side its command samples. -/
theorem writeCommandRunsTheDecodedCommand : Obligations.WriteCommandRunsTheDecodedCommand := by
  intro c s
  refine ⟨exec_writeCommand_toInstr c s, fun hbusy => ?_⟩
  obtain ⟨t, hexec, hlast, hside⟩ := exec_toInstr_accepted (decodeCommand c) hbusy
  refine ⟨t, (exec_writeCommand_toInstr c s).trans hexec, hlast, fun hnone => ?_, fun hsome => ?_⟩
  · rw [hside, sampledSide_eq_none hnone]
    rfl
  · rw [hside, sampledSide_decodeCommand hsome]
    rfl

/-! Who leaves the block busy: the bodies and the port accesses that may end a transfer clear `busy` or leave it. -/

/-- Every body but an armed write ends with `busy` clear (40_command_decoder.md R121). -/
theorem DataBody.busy {k : Command} {body : State → State} (hb : DataBody k body) (s : State) :
    (body s).flags.busy = false ∨ ∃ side, k = .writeSector side ∨ k = .writeTrack side := by
  cases hb with
  | readSector =>
    rcases s.readSectorBody_cases with ⟨_, he⟩ | he | ⟨_, _, _, _, -, -, -, -, he⟩ <;> exact .inl (he ▸ rfl)
  | readSectorMulti | writeSectorMulti => exact .inl rfl
  | writeSector side => exact .inr ⟨side, .inl rfl⟩
  | writeTrack side => exact .inr ⟨side, .inr rfl⟩
  | readAddress => rcases s.readAddressBody_cases with he | ⟨_, _, -, he⟩ <;> exact .inl (he ▸ rfl)
  | readTrack => rcases s.readTrackBody_cases with he | he <;> exact .inl (he ▸ rfl)

@[simp] theorem State.tickByte_busy (s : State) : s.tickByte.flags.busy = s.flags.busy := by
  rcases s.tickByte_cases with ⟨-, he⟩ | ⟨-, -, -, he⟩ | ⟨-, -, -, he⟩ <;> rw [he]

@[simp] theorem State.statusTicks_busy (s : State) : s.statusTicks.flags.busy = s.flags.busy := by
  simp [State.statusTicks, State.tickBusy_flags]

@[simp] theorem State.streamNext_busy (s : State) : s.streamNext.flags.busy = s.flags.busy := by
  rcases s.streamNext_cases with ⟨-, he⟩ | ⟨-, -, he⟩ | ⟨-, -, he⟩ <;> rw [he]

theorem State.commitWriteSector_busy (s : State) : s.commitWriteSector.flags.busy = false := by
  rcases s.commitWriteSector_cases with ⟨_, he⟩ | ⟨_, _, _, -, -, -, -, ⟨-, he⟩ | ⟨-, he⟩⟩ <;> exact he ▸ rfl

theorem State.acceptByte_busy {s : State} (h : s.flags.busy = false) (v : Byte) :
    (s.acceptByte v).flags.busy = false := by
  unfold State.acceptByte
  split
  · split
    · exact State.commitWriteSector_busy _
    · rfl
  · exact h

theorem State.putData_busy {s : State} (h : s.flags.busy = false) (v : Byte) : (s.putData v).flags.busy = false := by
  rcases s.putData_cases v with ⟨-, he⟩ | ⟨-, -, he⟩ | ⟨-, -, he⟩
  · exact he ▸ h
  · exact he ▸ h
  · exact he ▸ State.acceptByte_busy (s := s.loadData v) h v

theorem State.typeI_busy {s : State} (h : s.flags.busy = false) (load : Bool) {body : State → State}
    (hb : TypeIBody body) : (s.typeI load body).flags.busy = false := by
  rcases s.typeI_cases load hb with ⟨-, he⟩ | ⟨-, _, _, _, _, -, he⟩
  · exact he ▸ h
  · exact he ▸ rfl

/-- From a block that is not busy, every meaning but an armed write leaves it not busy. -/
theorem Meaning.busy {i : Instr} {f : State → State} (hf : Meaning i f) {s : State} (h : s.flags.busy = false) :
    (f s).flags.busy = false ∨ ∃ side, issues i (.writeSector side) ∨ issues i (.writeTrack side) := by
  cases hf with
  | typeI load _ _ isBody => exact .inl (State.typeI_busy h load isBody)
  | data side issued isBody =>
    simp only [State.command_of_idle h]
    refine (isBody.busy _).imp_right ?_
    rintro ⟨b, rfl | rfl⟩
    · exact ⟨b, .inl issued⟩
    · exact ⟨b, .inr issued⟩
  | forceInterrupt =>
    obtain ⟨-, hbusy, -⟩ := forcedIndicators_flags s.flags
    exact .inl hbusy
  | readStatus | readDrivePort | readData => exact .inl (by simpa using h)
  | writeData v => exact .inl (State.putData_busy h v)
  | readTrackRegister | readSectorRegister | readUnmapped | writeTrackRegister | writeSectorRegister
  | writeDriveSelect | writeUnmapped => exact .inl h

/-- Settles O48: `Meaning.busy`, for the meaning of the instruction. -/
theorem onlyWriteCommandsLeaveTheBlockBusy : Obligations.OnlyWriteCommandsLeaveTheBlockBusy := by
  intro i s t hidle hexec hbusy
  obtain ⟨f, hf, hmeaning⟩ := exists_meaning i
  obtain rfl : f s = t := Host.Outcome.next.inj ((hmeaning s).symm.trans hexec)
  exact (hf.busy hidle).resolve_left (by simp [hbusy])

end Sys2Proof.Machine
end

section
/-! The Type I commands (41_type1_commands.md): what each body leaves, and the frame that brings every body to
`typeIDone`. -/

namespace Sys2Proof.Machine

/-! The frame. -/

theorem State.headLoad_eq (s : State) (load : Bool) :
    s.headLoad load =
      { s with flags := { s.flags with headLoaded := s.flags.headLoaded || (load && s.activeDrive.isSome) } } := by
  rw [← State.headLoad_flags]
  unfold State.headLoad
  split <;> rfl

theorem State.finishTypeI_eq (s : State) :
    s.finishTypeI =
      { s with
        flags :=
          { s.flags with
            busy := false, interruptRequest := s.flags.interruptRequest || decide (s.params.holdTypeI.val = 0) },
        busyDelay := if s.params.holdTypeI.val = 0 then s.busyDelay else s.params.holdTypeI.val } := by
  rw [← State.finishTypeI_flags, ← State.finishTypeI_busyDelay]
  unfold State.finishTypeI
  split <;> rfl

/-- The frame of an accepted Type I command (41_type1_commands.md R130): the completion adds the indicators, the head
load and the hold to whatever move the body makes after the prologue. -/
theorem State.typeI_of_body {s : State} (hidle : s.flags.busy = false) (load : Bool) {body : State → State}
    {dir : StepDirection} {tr : Byte} {ds : Vector Drive 4} {e : Bool}
    (hbody : body (s.prologue .typeI none) =
      { s.prologue .typeI none with
        stepDirection := dir, trackReg := tr, drives := ds,
        flags := { Indicators.clear with busy := true, seekError := e } }) :
    s.typeI load body = { typeIDone s load e with stepDirection := dir, trackReg := tr, drives := ds } := by
  rw [State.typeI, State.command_of_idle hidle, hbody, State.headLoad_eq, State.finishTypeI_eq]
  rfl

/-! Restore. -/

theorem State.restoreBody_of_none {s : State} (h : s.activeDrive = none) :
    s.restoreBody = { s with stepDirection := .outwards, trackReg := 0 } := by
  simp only [State.restoreBody, h]

theorem State.restoreBody_of_some {s : State} {a : Fin 4} (h : s.activeDrive = some a) :
    s.restoreBody = { s.setCurrentTrack a 0 with stepDirection := .outwards, trackReg := 0 } := by
  simp only [State.restoreBody, h]

/-- Settles O17: with and without a drive, the body's move brought through the frame. -/
theorem restoreGoesToTrackZero : Obligations.RestoreGoesToTrackZero := by
  refine fun load s hidle => ⟨fun hnone => ?_, fun a hsome => ?_⟩
  · exact congrArg _ (State.typeI_of_body hidle load (State.restoreBody_of_none hnone))
  · exact congrArg _ (State.typeI_of_body hidle load (State.restoreBody_of_some hsome))

/-! Seek. -/

theorem State.seekBody_of_none {s : State} (h : s.activeDrive = none) :
    s.seekBody = { (s.facing s.seekDirection).seekFailed with trackReg := s.dataReg } := by
  simp only [State.seekBody, h]

theorem State.seekBody_of_unreachable {s : State} {a : Fin 4} (h : s.activeDrive = some a)
    (hfar : (s.drive a).desc.tracks ≤ s.dataReg.toNat) : s.seekBody = (s.facing s.seekDirection).seekFailed := by
  simp only [State.seekBody, h, if_pos hfar]

theorem State.seekBody_of_reachable {s : State} {a : Fin 4} (h : s.activeDrive = some a)
    (hnear : s.dataReg.toNat < (s.drive a).desc.tracks) :
    s.seekBody = { (s.facing s.seekDirection).setCurrentTrack a s.dataReg.toNat with trackReg := s.dataReg } := by
  simp only [State.seekBody, h, if_neg (Nat.not_le.mpr hnear)]

/-- Settles O18: the three cases of the body, each brought through the frame. -/
theorem seekGoesToTheDataRegister : Obligations.SeekGoesToTheDataRegister := by
  refine fun load s hidle => ⟨fun hnone => ?_, fun a hsome => ⟨fun hfar => ?_, fun hnear => ?_⟩⟩
  · exact congrArg _ (State.typeI_of_body hidle load (State.seekBody_of_none hnone))
  · have hfar : (s.drive a).desc.tracks ≤ s.dataReg.toNat := by omega
    exact congrArg _ (State.typeI_of_body hidle load (State.seekBody_of_unreachable hsome hfar))
  · have hnear : s.dataReg.toNat < (s.drive a).desc.tracks := by omega
    exact congrArg _ (State.typeI_of_body hidle load (State.seekBody_of_reachable hsome hnear))

/-! The Step forms. -/

theorem stepDone_of_none {s : State} (h : s.activeDrive = none) (load : Bool) (dir : StepDirection) (update : Bool) :
    stepDone s load dir update = { typeIDone s load false with stepDirection := dir } := by
  simp only [stepDone, h]

theorem stepDone_of_some {s : State} {a : Fin 4} (h : s.activeDrive = some a) (load : Bool) (dir : StepDirection)
    (update : Bool) :
    stepDone s load dir update =
      { typeIDone s load false with
        stepDirection := dir, drives := (s.setCurrentTrack a (steppedTrack dir (s.drive a))).drives,
        trackReg := if update then toByte (steppedTrack dir (s.drive a)) else s.trackReg } := by
  cases dir <;> simp [stepDone, h, steppedTrack, toByte]

/-- A body that moves the head by one in direction `dir` after the prologue makes the step the rules describe
(41_type1_commands.md R140). -/
theorem State.typeI_of_stepMove {s : State} (hidle : s.flags.busy = false) (load : Bool) {body : State → State}
    {dir : StepDirection} {update : Bool}
    (hbody : body (s.prologue .typeI none) = ((s.prologue .typeI none).facing dir).stepMove update) :
    s.typeI load body = stepDone s load dir update := by
  rcases ((s.prologue .typeI none).facing dir).stepMove_eq update with ⟨hnone, hmove⟩ | ⟨a, hsome, hmove⟩
  · rw [stepDone_of_none (s := s) hnone]
    exact State.typeI_of_body hidle load (hbody.trans hmove)
  · rw [stepDone_of_some (s := s) hsome]
    exact State.typeI_of_body hidle load (hbody.trans hmove)

/-- Settles O19: the plain forms face the direction the last command left, the others their own. -/
theorem stepFormsMoveTheHeadByOne : Obligations.StepFormsMoveTheHeadByOne := by
  intro load s hidle
  refine ⟨?_, ?_, ?_, ?_, ?_, ?_⟩ <;> exact congrArg _ (State.typeI_of_stepMove hidle load rfl)

end Sys2Proof.Machine
end

section
/-! The Type II commands and the write commit (42_type2_commands.md), with WriteTrack, which arms its transfer as
WriteSector does: what each check of a body answers, in the order of the checks, and what the prologue or the last byte
of a transfer adds to it. -/

namespace Sys2Proof.Machine

/-! An accepted command: the body after the prologue. -/

theorem DataBody.exec_of_idle {k : Command} {body : State → State} (hb : DataBody k body) {s : State}
    (hidle : s.flags.busy = false) :
    exec k.toInstr s = .next (body (s.prologue (commandType k) (sampledSide k))) := by
  rw [hb.exec_toInstr, State.command_of_idle hidle]

/-- A fault taken right after the prologue keeps no flag of the command before (40_command_decoder.md R113, R117). -/
theorem State.prologue_raise (s : State) (t : CommandType) (side : Bool) (f : CommandFault) :
    (s.prologue t (some side)).raise f = commandFailed s t side (f.record Indicators.clear) := by
  cases f <;> rfl

/-- Settles O22: the body logs and raises, and makes no other check. -/
theorem multiSectorIsUnsupported : Obligations.MultiSectorIsUnsupported := by
  refine fun side s hidle => ⟨?_, ?_⟩
  · exact (DataBody.readSectorMulti side).exec_of_idle hidle
  · exact (DataBody.writeSectorMulti side).exec_of_idle hidle

/-! Arming a write. -/

theorem State.armWriteBody_of_writable {s : State} {d : Drive} {p : String} (hmedia : s.readyMedia = some (d, p))
    (hprotect : d.desc.writeProtect = false) (mode : Xfer) :
    s.armWriteBody mode = { s with used := d.desc.sectorSize }.armWrite mode := by
  simp only [State.armWriteBody, hmedia, hprotect, Bool.false_eq_true, if_false]

/-- Settles O23: both bodies arm the transfer in the state the prologue leaves, each in its own mode. -/
theorem writeCommandsArmTheTransfer : Obligations.WriteCommandsArmTheTransfer := by
  intro side s a p hidle hdrive hpath hready hprotect
  have harm (t : CommandType) (mode : Xfer) :
      (s.prologue t (some side)).armWriteBody mode =
        { s.prologue t (some side) with used := (s.drive a).desc.sectorSize }.armWrite mode :=
    State.armWriteBody_of_writable
      ((s.prologue_readyMedia ..).trans (State.readyMedia_of hdrive hpath hready)) hprotect mode
  refine ⟨?_, ?_⟩
  · exact ((DataBody.writeSector side).exec_of_idle hidle).trans (congrArg _ (harm ..))
  · exact ((DataBody.writeTrack side).exec_of_idle hidle).trans (congrArg _ (harm ..))

/-! ReadSector: the checks of the body, in order (42_type2_commands.md R150, 40_command_decoder.md R120). -/

theorem State.readSectorBody_of_notReady {s : State} (h : s.readyMedia = none) :
    s.readSectorBody = s.raise .notReady := by
  simp only [State.readSectorBody, h]

section
variable {s : State} {d : Drive} {p : String} {off : Int} (hmedia : s.readyMedia = some (d, p))
include hmedia

theorem State.readSectorBody_of_trackMismatch (htrack : s.trackReg.toNat ≠ d.currentTrack) :
    s.readSectorBody = s.raise .trackMismatch := by
  simp only [State.readSectorBody, hmedia, if_pos htrack]

theorem State.readSectorBody_of_mapperError {e : MapperError} (htrack : s.trackReg.toNat = d.currentTrack)
    (hoff : s.sectorOffset d = .error e) : s.readSectorBody = s.raise .mapperError := by
  simp only [State.readSectorBody, hmedia, htrack, hoff, ne_eq, not_true_eq_false, if_false]

theorem State.readSectorBody_of_ioError (htrack : s.trackReg.toNat = d.currentTrack)
    (hoff : s.sectorOffset d = .ok off) (hread : s.memRead p off d.desc.sectorSize = none) :
    s.readSectorBody = { s.ioTaken with readyDelay := s.params.readyDelayIoErr.polls }.raise .hostIoError := by
  simp only [State.readSectorBody, hmedia, htrack, hoff, hread, ne_eq, not_true_eq_false, if_false]

end

/-- An accepted ReadSector whose body raises a fault before it makes an image access. -/
theorem exec_readSector_of_raise {s : State} {side : Bool} {f : CommandFault} (hidle : s.flags.busy = false)
    (hbody : (s.prologue .typeII (some side)).readSectorBody = (s.prologue .typeII (some side)).raise f) :
    exec (.readSector side) s = .next (commandFailed s .typeII side (f.record Indicators.clear)) :=
  ((DataBody.readSector side).exec_of_idle hidle).trans (congrArg _ (hbody.trans (s.prologue_raise ..)))

/-- Arming the stream shows the first byte of the sector, not one that stood in the buffer before it. -/
theorem State.prologue_stream (s : State) (t : CommandType) (side : Bool) {bytes : List Byte} (h : bytes ≠ []) :
    ((s.prologue t (some side)).ioTaken.fillBuffer bytes).armRead.notBusy =
      { streamStarted s t side bytes with ioDraws := s.ioDraws.tail, ioCount := s.ioCount + 1 } := by
  obtain ⟨b, rest, rfl⟩ := List.exists_cons_of_ne_nil h
  rfl

/-- Settles O20: every check of the body passes after the prologue, and the read returns the sector, which is not
empty. -/
theorem readSectorStartsTheStream : Obligations.ReadSectorStartsTheStream := by
  intro side s a p m off hidle hdrive hpath hready htrack hoff hfile hlow hhigh hsize hdraw
  have hread : s.memRead p off (s.drive a).desc.sectorSize =
      some (m.readBytes off.toNat (s.drive a).desc.sectorSize) :=
    State.memRead_eq_some.mpr ⟨m, hfile, hlow, hhigh, hdraw, rfl⟩
  have hbytes : m.readBytes off.toNat (s.drive a).desc.sectorSize ≠ [] :=
    List.ne_nil_of_length_pos (by rw [Memory.readBytes_length]; omega)
  have hbody := State.readSectorBody_of_ok (s := s.prologue .typeII (some side))
    ((s.prologue_readyMedia ..).trans (State.readyMedia_of hdrive hpath hready)) htrack
    ((s.prologue_sectorOffset ..).trans hoff) ((s.prologue_memRead ..).trans hread)
  exact ((DataBody.readSector side).exec_of_idle hidle).trans
    (congrArg _ (hbody.trans (s.prologue_stream _ _ hbytes)))

/-- Settles O21: one clause for each check of the body, which looks at the state the prologue leaves. -/
theorem readSectorFaultsInOrder : Obligations.ReadSectorFaultsInOrder := by
  refine fun side s hidle => ⟨fun hnotReady => ?_, fun a p hdrive hpath hready => ?_⟩
  · have hnone := State.readyMedia_eq_none.mpr (State.notReadyMedia_iff.mpr hnotReady)
    exact exec_readSector_of_raise hidle
      (State.readSectorBody_of_notReady ((s.prologue_readyMedia ..).trans hnone))
  · have hmedia : (s.prologue .typeII (some side)).readyMedia = some (s.drive a, p) :=
      (s.prologue_readyMedia ..).trans (State.readyMedia_of hdrive hpath hready)
    refine ⟨fun htrack => ?_, fun htrack => ⟨fun e hoff => ?_, fun off hoff hread => ?_⟩⟩
    · exact exec_readSector_of_raise hidle (State.readSectorBody_of_trackMismatch hmedia htrack)
    · exact exec_readSector_of_raise hidle
        (State.readSectorBody_of_mapperError hmedia htrack ((s.prologue_sectorOffset ..).trans hoff))
    · exact ((DataBody.readSector side).exec_of_idle hidle).trans
        (congrArg _ (State.readSectorBody_of_ioError hmedia htrack ((s.prologue_sectorOffset ..).trans hoff)
          ((s.prologue_memRead ..).trans hread)))

/-! The write commit: its checks, in order (42_type2_commands.md R154). -/

theorem State.commitWriteSector_of_noMedia {s : State} (h : s.activeMedia = none) :
    s.commitWriteSector = s.raise .notReady := by
  simp only [State.commitWriteSector, h]

section
variable {s : State} {d : Drive} {p : String} {off : Int} (hmedia : s.activeMedia = some (d, p))
include hmedia

theorem State.commitWriteSector_of_protected (hprotect : d.desc.writeProtect = true) :
    s.commitWriteSector = s.raise .writeProtected := by
  simp only [State.commitWriteSector, hmedia, hprotect, if_true]

theorem State.commitWriteSector_of_trackMismatch (hprotect : d.desc.writeProtect = false)
    (htrack : s.trackReg.toNat ≠ d.currentTrack) : s.commitWriteSector = s.raise .trackMismatch := by
  simp only [State.commitWriteSector, hmedia, hprotect, Bool.false_eq_true, if_false, if_pos htrack]

theorem State.commitWriteSector_of_mapperError {e : MapperError} (hprotect : d.desc.writeProtect = false)
    (htrack : s.trackReg.toNat = d.currentTrack) (hoff : s.sectorOffset d = .error e) :
    s.commitWriteSector = s.raise .mapperError := by
  simp only [State.commitWriteSector, hmedia, hprotect, htrack, hoff, ne_eq, not_true_eq_false, Bool.false_eq_true,
    if_false]

theorem State.commitWriteSector_of_ioError (hprotect : d.desc.writeProtect = false)
    (htrack : s.trackReg.toNat = d.currentTrack) (hoff : s.sectorOffset d = .ok off)
    (hfails : s.memWriteOk p off (s.buf.take s.used).length = false) :
    s.commitWriteSector = (s.memWritten p off (s.buf.take s.used)).raise .hostIoError := by
  simp only [State.commitWriteSector, hmedia, hprotect, htrack, hoff, hfails, ne_eq, not_true_eq_false,
    Bool.false_eq_true, if_false]

end

/-! The write access of a commit. -/

/-- A write access changes the files and takes one draw. -/
theorem State.memWritten_eq (s : State) (p : String) (off : Int) (vs : List Byte) :
    s.memWritten p off vs = { s.ioTaken with files := (s.memWritten p off vs).files } := by
  unfold State.memWritten
  (repeat' split) <;> rfl

/-- What each byte in the range of a write access that returns `Ok` reads as (20_memory.md R67). -/
theorem State.memWritten_fileByte_inside {s : State} (h : filesWf s.files) {p : String} {off : Int} {vs : List Byte}
    (hok : s.memWriteOk p off vs.length = true) {i : Nat} (hi : i < vs.length) :
    (s.memWritten p off vs).fileByte p (off.toNat + i) = some (vs.getD i 0) := by
  obtain ⟨m, hm, hoff, hsize, -⟩ := State.memWriteOk_iff.mp hok
  obtain ⟨m', hm', hwritten⟩ := State.memWritten_ok_find hok
  obtain rfl : m = m' := Option.some.inj (hm.symm.trans hm')
  have hin : off.toNat + i < m.size := by omega
  simp only [State.fileByte, hwritten, Memory.writeBytes_size, if_pos hin]
  rw [Memory.read_writeBytes (filesFind_wf h hm), if_pos ⟨by omega, by omega, hin⟩, Nat.add_sub_cancel_left]

/-- Only the files decide what a byte of an image reads as. -/
theorem State.fileByte_of_files_eq {s t : State} (h : t.files = s.files) (p : String) (a : Nat) :
    t.fileByte p a = s.fileByte p a := by
  simp only [State.fileByte, h]

theorem State.collected_getD {s : State} {i : Nat} (h : i < s.used) (v : Byte) :
    (s.collected v).getD i 0 = (s.buf.set s.position v).getD i 0 := by
  rw [State.collected, List.getD_eq_getElem?_getD, List.getD_eq_getElem?_getD, List.getElem?_take_of_lt h]

/-- Whether the collected bytes are written or torn, the access reaches no byte outside the `used` bytes at its
offset. -/
theorem State.Inv.collected_fileByte_outside {s : State} (hinv : s.Inv) (v : Byte) {p q : String} {off : Int} {b : Nat}
    (hout : q ≠ p ∨ (b : Int) < off ∨ off + s.used ≤ b) :
    (((s.loadData v).storeByte v).memWritten p off (s.collected v)).fileByte q b = s.fileByte q b :=
  State.memWritten_fileByte_outside (s := (s.loadData v).storeByte v) hinv.files
    ((hinv.collected_length v).symm ▸ hout)

/-! The last byte of a sector write. -/

theorem exec_writeData_of_lastByte {s : State} (hx : s.xfer = .writeSectorIn) (hd : s.flags.dataRequest = true)
    (hlast : s.position + 1 = s.used) (v : Byte) :
    exec (.writeData v) s = .next ((s.loadData v).storeByte v).commitWriteSector :=
  congrArg _ (State.putData_of_lastByte hx hd hlast v)

/-- A fault of the commit keeps the other flags of the transfer. -/
theorem State.storeByte_raise (s : State) (v : Byte) (f : CommandFault) :
    ((s.loadData v).storeByte v).raise f = commitEnded s v (f.record s.flags) := by
  cases f <;> rfl

/-- Settles O40: the commit's one write access puts the collected bytes at the offset, and the rest of the state is that
of a transfer that has ended. -/
theorem commitWritesTheSector : Obligations.CommitWritesTheSector := by
  intro v s d p off hinv hx hrequest hlast hmedia hprotect htrack hoff hok
  have hlength := hinv.collected_length v
  rw [← hlength] at hok
  have hexec := exec_writeData_of_lastByte hx hrequest hlast v
  have ht := writeData_commits hx hrequest hlast hmedia hprotect htrack hoff hok hexec
  refine ⟨_, hexec.trans (congrArg _ ht), fun i hi => ?_, fun q b hout => ?_, ?_⟩
  · rw [← State.collected_getD hi v]
    exact State.memWritten_fileByte_inside (s := (s.loadData v).storeByte v) hinv.files hok (hlength.symm ▸ hi)
  · exact hinv.collected_fileByte_outside v hout
  · rw [State.memWritten_eq]
    rfl

/-- Settles O41: one clause for each check of the commit, which looks at the state with the last byte stored. -/
theorem commitFaultsInOrder : Obligations.CommitFaultsInOrder := by
  intro v s hinv hx hrequest hlast
  have hexec := exec_writeData_of_lastByte hx hrequest hlast v
  have hraise {f : CommandFault}
      (hbody : ((s.loadData v).storeByte v).commitWriteSector = ((s.loadData v).storeByte v).raise f) :
      exec (.writeData v) s = .next (commitEnded s v (f.record s.flags)) :=
    hexec.trans (congrArg _ (hbody.trans (s.storeByte_raise v f)))
  refine ⟨fun hnone => ?_, fun a p hdrive hpath => ?_⟩
  · have hmedia : s.activeMedia = none := by
      rcases hnone with hnone | ⟨a, hdrive, hpath⟩
      · simp [State.activeMedia_eq_none, hnone]
      · simp [State.activeMedia_eq_none, hdrive, hpath]
    exact hraise (State.commitWriteSector_of_noMedia hmedia)
  · have hmedia : ((s.loadData v).storeByte v).activeMedia = some (s.drive a, p) :=
      State.activeMedia_eq_some.mpr ⟨a, hdrive, rfl, hpath⟩
    refine ⟨fun hprotect => ?_, fun hprotect htrack => ?_, fun hprotect htrack =>
      ⟨fun e hoff => ?_, fun off hoff hfails => ?_⟩⟩
    · exact hraise (State.commitWriteSector_of_protected hmedia hprotect)
    · exact hraise (State.commitWriteSector_of_trackMismatch hmedia hprotect htrack)
    · exact hraise (State.commitWriteSector_of_mapperError hmedia hprotect htrack hoff)
    · rw [← hinv.collected_length v] at hfails
      have hbody := State.commitWriteSector_of_ioError hmedia hprotect htrack hoff hfails
      refine ⟨_, hexec.trans (congrArg _ hbody), fun q b hout => hinv.collected_fileByte_outside v hout, ?_⟩
      rw [State.memWritten_eq]
      rfl

/-! The frame of a data-port write. -/

theorem State.commitTarget_of_checks {s : State} {d : Drive} {p : String} {off : Int}
    (hx : s.xfer = .writeSectorIn) (hd : s.flags.dataRequest = true) (hlast : s.position + 1 = s.used)
    (hmedia : s.activeMedia = some (d, p)) (hprotect : d.desc.writeProtect = false)
    (htrack : s.trackReg.toNat = d.currentTrack) (hoff : s.sectorOffset d = .ok off) :
    s.commitTarget = some (p, off, s.used) := by
  simp [State.commitTarget, hx, hd, hlast, hmedia, hprotect, htrack, hoff]

/-- All that the commit of a sector does to the files. -/
theorem State.lastByte_files {s : State} (hx : s.xfer = .writeSectorIn) (hd : s.flags.dataRequest = true)
    (hlast : s.position + 1 = s.used) (v : Byte) :
    ((s.loadData v).storeByte v).commitWriteSector.files = s.files ∨
      ∃ p off, s.commitTarget = some (p, off, s.used) ∧
        ((s.loadData v).storeByte v).commitWriteSector.files =
          (((s.loadData v).storeByte v).memWritten p off (s.collected v)).files := by
  rcases ((s.loadData v).storeByte v).commitWriteSector_cases with
    ⟨f, he⟩ | ⟨d, p, off, hmedia, hprotect, htrack, hoff, hwrite⟩
  · exact .inl (he ▸ State.raise_files _ f)
  · refine .inr ⟨p, off, State.commitTarget_of_checks hx hd hlast hmedia hprotect htrack hoff, ?_⟩
    rcases hwrite with ⟨-, he⟩ | ⟨-, he⟩
    · exact he ▸ State.commitDone_files _
    · exact he ▸ State.raise_files _ _

/-- All that a data-port write does to the files: nothing, or the collected bytes handed to the commit's target. -/
theorem State.putData_files (s : State) (v : Byte) :
    (s.putData v).files = s.files ∨
      ∃ p off, s.commitTarget = some (p, off, s.used) ∧
        (s.putData v).files = (((s.loadData v).storeByte v).memWritten p off (s.collected v)).files := by
  rcases s.putData_cases v with ⟨-, he⟩ | ⟨-, -, he⟩ | ⟨hx, hd, he⟩
  · exact .inl (he ▸ rfl)
  · exact .inl (he ▸ rfl)
  · rw [he]
    by_cases hlast : s.position + 1 = s.used
    · rcases hx with hx | hx
      · rw [← he, State.putData_of_lastByte hx hd hlast]
        exact State.lastByte_files hx hd hlast v
      · have haccept : (s.loadData v).acceptByte v = ((s.loadData v).storeByte v).commitWriteTrack := by
          unfold State.acceptByte
          exact (if_pos hlast).trans (if_neg (by simp [State.loadData, hx]))
        exact .inl (haccept ▸ rfl)
    · have haccept : (s.loadData v).acceptByte v =
          { (s.loadData v).storeByte v with byteDelay := s.params.byteDelay.polls } := if_neg hlast
      exact .inl (haccept ▸ rfl)

/-- Settles O43: where the files change, they change by one write access at the commit's target. -/
theorem dataWriteStoresOnlyAtItsTarget : Obligations.DataWriteStoresOnlyAtItsTarget := by
  intro v s t hinv he
  obtain rfl : s.putData v = t := Host.Outcome.next.inj he
  rcases s.putData_files v with hkept | ⟨p, off, htarget, hwritten⟩
  · have hall := State.fileByte_of_files_eq hkept
    exact ⟨fun _ => hall, fun _ _ _ _ q b _ => hall q b⟩
  · refine ⟨fun hnone => absurd (htarget.symm.trans hnone) (Option.some_ne_none _), ?_⟩
    intro p' off' n htarget' q b hout
    obtain ⟨rfl, rfl, rfl⟩ : p = p' ∧ off = off' ∧ s.used = n := by simpa [htarget] using htarget'
    exact (State.fileByte_of_files_eq hwritten q b).trans (hinv.collected_fileByte_outside v hout)

end Sys2Proof.Machine
end

section
/-! The Type III commands (43_type3_commands.md): the round-robin counter and the record of ReadAddress, which a run of
ReadAddress commands cycles; ReadTrack; and the last byte of a WriteTrack. -/

namespace Sys2Proof.Machine

/-! The not-ready check, the only check of ReadAddress and ReadTrack (43_type3_commands.md R170, R173). -/

theorem State.readAddressBody_of_notReady {s : State} (h : s.readyMedia = none) :
    s.readAddressBody = s.raise .notReady := by
  simp only [State.readAddressBody, h]

theorem State.readAddressBody_of_ready {s : State} {d : Drive} {p : String} (h : s.readyMedia = some (d, p)) :
    s.readAddressBody = ((s.raAdvance d).fillBuffer ((s.raAdvance d).idRecord d)).armRead.notBusy := by
  simp only [State.readAddressBody, h]

theorem State.readTrackBody_of_notReady {s : State} (h : s.readyMedia = none) :
    s.readTrackBody = s.raise .notReady := by
  simp only [State.readTrackBody, h]

theorem State.readTrackBody_of_ready {s : State} {d : Drive} {p : String} (h : s.readyMedia = some (d, p)) :
    s.readTrackBody = s.notBusy := by
  simp only [State.readTrackBody, h]

/-- Settles O27: one clause for each answer of the check, which finds the media as they were before the prologue. -/
theorem readTrackOnlyEnds : Obligations.ReadTrackOnlyEnds := by
  refine fun side s hidle => ⟨fun a p hdrive hpath hready => ?_, fun hnotReady => ?_⟩
  · have hmedia := (s.prologue_readyMedia .typeIII (some side)).trans (State.readyMedia_of hdrive hpath hready)
    exact ((DataBody.readTrack side).exec_of_idle hidle).trans (congrArg _ (State.readTrackBody_of_ready hmedia))
  · have hnone := (s.prologue_readyMedia .typeIII (some side)).trans
      (State.readyMedia_eq_none.mpr (State.notReadyMedia_iff.mpr hnotReady))
    have hraise := s.prologue_raise .typeIII side .notReady
    exact ⟨((DataBody.readTrack side).exec_of_idle hidle).trans
        (congrArg _ ((State.readTrackBody_of_notReady hnone).trans hraise)),
      ((DataBody.readAddress side).exec_of_idle hidle).trans
        (congrArg _ ((State.readAddressBody_of_notReady hnone).trans hraise))⟩

/-! ReadAddress on a ready drive. -/

/-- What an accepted ReadAddress leaves on the ready drive `d`: the counter advanced, and the record with the advanced
sector number streaming (43_type3_commands.md R170, R172). -/
def addressStreamed (s : State) (side : Bool) (d : Drive) : State :=
  streamStarted (s.raAdvance d) .typeIII side
    (addressRecord (toByte d.currentTrack) (toByte side.toNat) (s.raAdvance d).sectorReg (sizeCode d.desc.sectorSize))

theorem exec_readAddress_of_ready {s : State} {d : Drive} {p : String} (hidle : s.flags.busy = false)
    (hmedia : s.readyMedia = some (d, p)) (side : Bool) :
    exec (.readAddress side) s = .next (addressStreamed s side d) :=
  ((DataBody.readAddress side).exec_of_idle hidle).trans
    (congrArg _ (State.readAddressBody_of_ready ((s.prologue_readyMedia ..).trans hmedia)))

theorem toByte_toNat_bool (b : Bool) : toByte b.toNat = if b then 1#8 else 0#8 := by
  cases b <;> rfl

/-- The size codes of the sector sizes a mount admits (43_type3_commands.md R171). -/
theorem sizeCode_of_mem {n : Nat} {z : Byte} (h : (n, z) ∈ [(128, 0#8), (256, 1#8), (512, 2#8), (1024, 3#8)]) :
    sizeCode n = z := by
  simp only [List.mem_cons, List.not_mem_nil, or_false, Prod.mk.injEq] at h
  rcases h with ⟨rfl, rfl⟩ | ⟨rfl, rfl⟩ | ⟨rfl, rfl⟩ | ⟨rfl, rfl⟩ <;> rfl

/-- Settles O25: the record of `addressStreamed`, byte by byte. -/
theorem readAddressStreamsTheRecord : Obligations.ReadAddressStreamsTheRecord := by
  intro side s a p z hidle hdrive hpath hready hsize
  refine ⟨_, _, _, _, _, rfl, rfl, rfl, rfl, rfl, ?_⟩
  rw [exec_readAddress_of_ready hidle (State.readyMedia_of hdrive hpath hready), addressStreamed,
    toByte_toNat_bool, sizeCode_of_mem hsize]
  rfl

/-! Repeated ReadAddress. -/

/-- Within the sector count, the counter advances modulo one more than the count (43_type3_commands.md R172). -/
theorem raNext_eq_mod {c n : Nat} (h : c ≤ n) : raNext c n = (c + 1) % (n + 1) := by
  unfold raNext
  split
  · obtain rfl : c = n := by omega
    exact (Nat.mod_self _).symm
  · exact (Nat.mod_eq_of_lt (by omega)).symm

theorem runAll_cons_of_next {i : Instr} {s t : State} (h : exec i s = .next t) (rest : List Instr) :
    runAll (i :: rest) s = runAll rest t := by
  simp only [runAll, h]

theorem addressStreamed_readyMedia (s : State) (side : Bool) (d : Drive) :
    (addressStreamed s side d).readyMedia = s.readyMedia := rfl

theorem addressStreamed_raCounter (s : State) (side : Bool) (d : Drive) :
    (addressStreamed s side d).raCounter = raNext s.raCounter d.desc.sectorsPerTrack := rfl

/-- Each ReadAddress leaves the block ready for the next one. `SR` follows the counter from the first of them on, or
from the start where it agreed there. -/
theorem runAll_readAddress (side : Bool) {d : Drive} {p : String} (k : Nat) {s : State}
    (hidle : s.flags.busy = false) (hmedia : s.readyMedia = some (d, p))
    (hcount : s.raCounter ≤ d.desc.sectorsPerTrack) :
    ∃ t, runAll (List.replicate k (.readAddress side)) s = some t ∧
      t.raCounter = (s.raCounter + k) % (d.desc.sectorsPerTrack + 1) ∧
      (k ≠ 0 ∨ s.sectorReg = toByte s.raCounter → t.sectorReg = toByte t.raCounter) := by
  induction k generalizing s with
  | zero => exact ⟨s, rfl, (Nat.mod_eq_of_lt (by omega)).symm, fun h => h.resolve_left (not_not_intro rfl)⟩
  | succ k ih =>
    obtain ⟨t, hrun, hcounter, hsector⟩ :=
      ih (s := addressStreamed s side d) rfl ((addressStreamed_readyMedia ..).trans hmedia) (raNext_le ..)
    refine ⟨t, (runAll_cons_of_next (exec_readAddress_of_ready hidle hmedia side) _).trans hrun, ?_,
      fun _ => hsector (.inr rfl)⟩
    rw [hcounter, addressStreamed_raCounter, raNext_eq_mod hcount, Nat.mod_add_mod, Nat.add_right_comm, Nat.add_assoc]

/-- Settles O26: `runAll_readAddress`, with `SR` read as a number. -/
theorem readAddressCyclesTheCounter : Obligations.ReadAddressCyclesTheCounter := by
  intro side s a p k hidle hdrive hpath hready hcount
  obtain ⟨t, hrun, hcounter, hsector⟩ :=
    runAll_readAddress side k hidle (State.readyMedia_of hdrive hpath hready) hcount
  refine ⟨t, hrun, hcounter, fun hk => ?_⟩
  rw [hsector (.inl hk), toByte, BitVec.toNat_ofNat]

/-! The last byte of a WriteTrack. -/

/-- The last byte is stored before the commit overwrites it. -/
theorem State.putData_of_lastTrackByte {s : State} (hx : s.xfer = .writeTrackIn) (hd : s.flags.dataRequest = true)
    (hlast : s.position + 1 = s.used) (v : Byte) :
    s.putData v = ((s.loadData v).storeByte v).commitWriteTrack := by
  have hmode : s.xfer ≠ .writeSectorIn := by simp [hx]
  calc s.putData v = (s.loadData v).acceptByte v := by simp only [State.putData, hx, hd, or_true, if_true]
    _ = ((s.loadData v).storeByte v).commitWriteTrack := (if_pos hlast).trans (if_neg hmode)

theorem State.storeByte_commitWriteTrack (s : State) (v : Byte) :
    ((s.loadData v).storeByte v).commitWriteTrack =
      { commitEnded s v s.flags with
        buf := List.replicate s.used s.params.eraseByte ++ (s.buf.set s.position v).drop s.used } := rfl

/-- Settles O42: the last byte commits, and the commit fills the buffer and makes no image access. -/
theorem writeTrackCommitTouchesNoImage : Obligations.WriteTrackCommitTouchesNoImage :=
  fun v s hx hd hlast =>
    congrArg _ ((State.putData_of_lastTrackByte hx hd hlast v).trans (s.storeByte_commitWriteTrack v))

end Sys2Proof.Machine
end

section
/-! The Type IV command (44_type4_command.md): the two ends of ForceInterrupt, which `busy` tells apart. -/

namespace Sys2Proof.Machine

/-! The indicators ForceInterrupt leaves (44_type4_command.md R190). -/

theorem forcedIndicators_of_busy {i : Indicators} (h : i.busy = true) :
    forcedIndicators i = { i with dataRequest := false, busy := false } :=
  if_pos h

theorem forcedIndicators_of_idle {i : Indicators} (h : i.busy = false) : forcedIndicators i = Indicators.clear :=
  if_neg (by simp [h])

/-- ForceInterrupt has one frame, whatever the state: only its indicators depend on `busy`, as no busy gate stands
before it (40_command_decoder.md R114; 44_type4_command.md R190, R191). -/
theorem exec_forceInterrupt (s : State) :
    exec .forceInterrupt s =
      .next
        { s with
          xfer := .idle, position := 0, used := 0, flags := forcedIndicators s.flags,
          busyDelay := s.params.holdForce.polls, lastType := .typeIV } := rfl

/-- Settles O28: the one frame of `exec_forceInterrupt`, with the indicators of a busy and of an idle block. -/
theorem forceInterruptEndsAndHolds : Obligations.ForceInterruptEndsAndHolds := by
  refine fun s => ⟨fun hbusy => ?_, fun hidle => ?_⟩
  · rw [exec_forceInterrupt, forcedIndicators_of_busy hbusy]
  · rw [exec_forceInterrupt, forcedIndicators_of_idle hidle]

end Sys2Proof.Machine
end

section
/-! The Transfer Engine's data port (45_transfer_engine.md): what one data-port access does in each case, the polls that
raise DRQ, and the runs built from them: a read stream to its end, and a write transfer before its last byte. -/

namespace Sys2Proof.Machine

/-! Runs. -/

theorem runAll_append_of_some {is : List Instr} {s t : State} (h : runAll is s = some t) (js : List Instr) :
    runAll (is ++ js) s = runAll js t := by
  induction is generalizing s with
  | nil => exact congrArg (runAll js) (Option.some.inj h)
  | cons i is ih =>
    obtain ⟨f, -, hexec⟩ := exists_meaning i
    rw [runAll_cons_of_next (hexec s)] at h
    exact (runAll_cons_of_next (hexec s) _).trans (ih h)

/-- One more instruction at the end of a repeated run. -/
theorem runAll_replicate_succ {i : Instr} {k : Nat} {s t u : State} (h : runAll (List.replicate k i) s = some t)
    (he : exec i t = .next u) : runAll (List.replicate (k + 1) i) s = some u := by
  rw [List.replicate_succ', runAll_append_of_some h, runAll_cons_of_next he, runAll]

/-! The data-port read (45_transfer_engine.md R203). -/

theorem exec_readData (s : State) : exec .readData s = .next (s.streamNext.returning s.dataReg) := rfl

theorem exec_readData_of_not_readOut {s : State} (h : s.xfer ≠ .readOut) :
    exec .readData s = .next { s with lastRead := some s.dataReg } := by
  rw [exec_readData, streamNext_of_not_readOut h]
  rfl

theorem exec_readData_of_more {s : State} (h : s.xfer = .readOut) (hmore : s.position < s.used) :
    exec .readData s =
      .next
        { s with
          lastRead := some s.dataReg, dataReg := s.buf.getD s.position 0, position := s.position + 1,
          flags := { s.flags with dataRequest := false }, byteDelay := s.params.byteDelay.polls } := by
  rw [exec_readData, streamNext_of_more h hmore]
  rfl

theorem exec_readData_of_end {s : State} (h : s.xfer = .readOut) (hend : s.used ≤ s.position) :
    exec .readData s =
      .next
        { s with
          lastRead := some s.dataReg, xfer := .idle, position := 0, used := 0,
          flags := { s.flags with dataRequest := false, interruptRequest := true } } := by
  rw [exec_readData, streamNext_of_end h hend.not_gt]
  rfl

/-- Settles O36: one clause for each case of the read. -/
theorem dataReadMovesTheStream : Obligations.DataReadMovesTheStream :=
  fun _ => ⟨exec_readData_of_not_readOut, exec_readData_of_more, exec_readData_of_end⟩

/-! A read stream. -/

/-- The read stream of `s` stands in `t` with its byte `k` in `DR`, and so with `k` bytes read
(45_transfer_engine.md R201, R203). -/
structure StreamLoaded (s : State) (k : Nat) (t : State) : Prop where
  xfer : t.xfer = .readOut
  position : t.position = k + 1
  used : t.used = s.used
  buf : t.buf = s.buf
  dataReg : t.dataReg = s.buf.getD k 0
  flags : { t.flags with dataRequest := false } = { s.flags with dataRequest := false }

theorem StreamLoaded.read_more {s t : State} {k : Nat} (h : StreamLoaded s k t) (hmore : k + 1 < s.used) :
    ∃ u, exec .readData t = .next u ∧ u.lastRead = some (s.buf.getD k 0) ∧ StreamLoaded s (k + 1) u := by
  refine ⟨_, exec_readData_of_more h.xfer (by rw [h.position, h.used]; exact hmore), congrArg _ h.dataReg, ?_⟩
  exact
    { xfer := h.xfer
      position := congrArg (· + 1) h.position
      used := h.used
      buf := h.buf
      dataReg := by rw [h.buf, h.position]
      flags := h.flags }

/-- The read of the stream's last byte ends the transfer. -/
theorem StreamLoaded.read_last {s t : State} {k : Nat} (h : StreamLoaded s k t) (hlast : k + 1 = s.used) :
    ∃ u, exec .readData t = .next u ∧ u.lastRead = some (s.buf.getD k 0) ∧ u.xfer = .idle ∧ u.position = 0 ∧
      u.used = 0 ∧ u.flags = { s.flags with dataRequest := false, interruptRequest := true } :=
  ⟨_, exec_readData_of_end h.xfer (by rw [h.position, h.used, hlast]), congrArg _ h.dataReg, rfl, rfl, rfl,
    congrArg (fun f : Indicators => { f with interruptRequest := true }) h.flags⟩

/-- Reads alone bring the stream to each of its bytes: no poll stands between them (70_reset_and_hazards.md R287). -/
theorem runAll_readData {s : State} (h : StreamLoaded s 0 s) {k : Nat} (hk : k < s.used) :
    ∃ t, runAll (List.replicate k .readData) s = some t ∧ StreamLoaded s k t := by
  induction k with
  | zero => exact ⟨s, rfl, h⟩
  | succ k ih =>
    obtain ⟨t, hrun, hloaded⟩ := ih (by omega)
    obtain ⟨u, hexec, -, hnext⟩ := hloaded.read_more hk
    exact ⟨u, runAll_replicate_succ hrun hexec, hnext⟩

/-- Settles O37: `k` reads load byte `k`, the next one returns it, and after the last byte it ends the transfer. -/
theorem readStreamDeliversTheBuffer : Obligations.ReadStreamDeliversTheBuffer := by
  intro s hx hposition hused _ hfirst
  have hloaded : StreamLoaded s 0 s := ⟨hx, hposition, rfl, rfl, hfirst, rfl⟩
  obtain ⟨n, hn⟩ : ∃ n, n + 1 = s.used := ⟨s.used - 1, by omega⟩
  obtain ⟨t, hrun, hlast⟩ := runAll_readData hloaded (k := n) (by omega)
  obtain ⟨u, hexec, hreturned, hended⟩ := hlast.read_last hn
  have hrun' := runAll_replicate_succ hrun hexec
  refine ⟨fun k hk => ?_, u, hn ▸ hrun', hended⟩
  by_cases hkn : k = n
  · exact ⟨u, hkn ▸ hrun', hkn ▸ hreturned⟩
  · obtain ⟨t, hrun, hloaded⟩ := runAll_readData hloaded hk
    obtain ⟨u, hexec, hreturned, -⟩ := hloaded.read_more (by omega)
    exact ⟨u, runAll_replicate_succ hrun hexec, hreturned⟩

/-! The data-port write before the last byte (45_transfer_engine.md R204, R205, R206). -/

theorem exec_writeData_of_not_writing {s : State} (h : ¬ (s.xfer = .writeSectorIn ∨ s.xfer = .writeTrackIn))
    (v : Byte) : exec (.writeData v) s = .next { s with dataReg := v } :=
  congrArg _ (if_neg h)

theorem exec_writeData_of_noRequest {s : State} (hx : s.xfer = .writeSectorIn ∨ s.xfer = .writeTrackIn)
    (hd : s.flags.dataRequest = false) (v : Byte) :
    exec (.writeData v) s = .next { s with dataReg := v, log := .unexpectedDataByte :: s.log } :=
  congrArg _ ((if_pos hx).trans (if_neg (by simp [hd])))

theorem exec_writeData_of_more {s : State} (hx : s.xfer = .writeSectorIn ∨ s.xfer = .writeTrackIn)
    (hd : s.flags.dataRequest = true) (hmore : s.position + 1 ≠ s.used) (v : Byte) :
    exec (.writeData v) s =
      .next
        { s with
          dataReg := v, buf := s.buf.set s.position v, position := s.position + 1,
          flags := { s.flags with dataRequest := false }, byteDelay := s.params.byteDelay.polls } :=
  congrArg _ ((if_pos hx).trans ((if_pos hd).trans (if_neg hmore)))

/-- Settles O38: one clause for each case of the write. -/
theorem dataWriteBeforeTheLastByte : Obligations.DataWriteBeforeTheLastByte := by
  refine fun v s => ⟨fun hx => exec_writeData_of_not_writing ?_ v, fun hx =>
    ⟨fun hd => exec_writeData_of_noRequest hx hd v, fun hd hmore => exec_writeData_of_more hx hd hmore v⟩⟩
  rcases hx with hx | hx <;> simp [hx]

/-! The polls of a transfer (45_transfer_engine.md R207). -/

/-- From `s` to `t` a write transfer has accepted the bytes `bs`, and no image has changed; `Accepts s [] t` is what
every poll keeps of a transfer of any mode. -/
structure Accepts (s : State) (bs : List Byte) (t : State) : Prop where
  xfer : t.xfer = s.xfer
  used : t.used = s.used
  position : t.position = s.position + bs.length
  length : t.buf.length = s.buf.length
  taken : t.buf.take t.position = s.buf.take s.position ++ bs
  params : t.params = s.params
  files : t.files = s.files

theorem Accepts.nil (s : State) : Accepts s [] s := ⟨rfl, rfl, rfl, rfl, (List.append_nil _).symm, rfl, rfl⟩

theorem Accepts.trans {s t u : State} {bs cs : List Byte} (h : Accepts s bs t) (h' : Accepts t cs u) :
    Accepts s (bs ++ cs) u where
  xfer := h'.xfer.trans h.xfer
  used := h'.used.trans h.used
  position := by rw [h'.position, h.position, List.length_append, Nat.add_assoc]
  length := h'.length.trans h.length
  taken := by rw [h'.taken, h.taken, List.append_assoc]
  params := h'.params.trans h.params
  files := h'.files.trans h.files

/-- A transfer that raises DRQ on the `n`-th poll from here; at 0 DRQ stands. -/
structure State.Waiting (s : State) (n : Nat) : Prop where
  active : s.xfer ≠ .idle
  dataRequest : s.flags.dataRequest = decide (n = 0)
  byteDelay : s.byteDelay = max 1 n

/-- A transfer without DRQ waits its `byte_delay`. -/
theorem State.waiting_byteDelay {s : State} (hx : s.xfer ≠ .idle) (hd : s.flags.dataRequest = false)
    (hn : 1 ≤ s.byteDelay) : s.Waiting s.byteDelay :=
  ⟨hx, by rw [hd, decide_eq_false (by omega)], (Nat.max_eq_right hn).symm⟩

theorem State.Waiting.tickByte {s : State} {n : Nat} (h : s.Waiting n) : s.tickByte.Waiting (n - 1) := by
  obtain ⟨hactive, hrequest, hdelay⟩ := h
  rcases s.tickByte_cases with ⟨hstands, he⟩ | ⟨-, hnone, hmore, he⟩ | ⟨-, hnone, hlast, he⟩
  · obtain rfl : n = 0 := by simpa [hrequest, hactive] using hstands
    rw [he]
    exact ⟨hactive, hrequest, hdelay⟩
  · refine he ▸ ⟨hactive, ?_, ?_⟩
    · show s.flags.dataRequest = _
      rw [hnone, decide_eq_false (by omega)]
    · show s.byteDelay - 1 = _
      omega
  · refine he ▸ ⟨hactive, ?_, ?_⟩
    · show true = _
      rw [decide_eq_true (by omega)]
    · show s.byteDelay = _
      omega

/-- A poll is one byte tick of the transfer, on either port; the other ticks do not touch it. -/
theorem exec_poll {i : Instr} (hi : isPoll i = true) {s : State} {n : Nat} (h : s.Waiting n) :
    ∃ t, exec i s = .next t ∧ t.Waiting (n - 1) ∧ Accepts s [] t := by
  obtain ⟨hactive, hrequest, hdelay⟩ := h.tickByte
  obtain rfl | rfl : i = .readStatus ∨ i = .readDrivePort := by simpa [isPoll] using hi
  · refine ⟨_, rfl, ⟨?_, ?_, ?_⟩, ?_⟩
    · simpa [State.statusTicks] using hactive
    · simpa [State.statusTicks, State.tickBusy_flags] using hrequest
    · simpa [State.statusTicks] using hdelay
    · constructor <;> simp [State.statusTicks]
  · refine ⟨_, rfl, ⟨?_, ?_, ?_⟩, ?_⟩
    · simpa using hactive
    · simpa using hrequest
    · simpa using hdelay
    · constructor <;> simp

theorem runAll_polls {polls : List Instr} (hpolls : ∀ i ∈ polls, isPoll i = true) {s : State} {n : Nat}
    (h : s.Waiting n) :
    ∃ t, runAll polls s = some t ∧ t.Waiting (n - polls.length) ∧ Accepts s [] t := by
  induction polls generalizing s n with
  | nil => exact ⟨s, rfl, h, .nil s⟩
  | cons i rest ih =>
    obtain ⟨hi, hrest⟩ := List.forall_mem_cons.mp hpolls
    obtain ⟨t, hexec, hwaiting, hkept⟩ := exec_poll hi h
    obtain ⟨u, hrun, hwaiting', hkept'⟩ := ih hrest hwaiting
    refine ⟨u, (runAll_cons_of_next hexec rest).trans hrun, ?_, hkept.trans hkept'⟩
    rwa [List.length_cons, Nat.add_comm, ← Nat.sub_sub]

/-- Settles O44: the transfer waits its `byte_delay`, less one for each poll. -/
theorem dataRequestComesOnTheNthPoll : Obligations.DataRequestComesOnTheNthPoll := by
  intro s polls hpolls hx hd hn
  obtain ⟨t, hrun, hwaiting, -⟩ := runAll_polls hpolls (State.waiting_byteDelay hx hd hn)
  refine ⟨t, hrun, ?_, hwaiting.byteDelay⟩
  rw [hwaiting.dataRequest]
  exact decide_eq_decide.mpr Nat.sub_eq_zero_iff_le

/-! Paced bytes. -/

theorem ne_idle_of_writing {x : Xfer} (h : x = .writeSectorIn ∨ x = .writeTrackIn) : x ≠ .idle := by
  rintro rfl
  simp at h

/-- A byte written under DRQ, with another one still to come, is accepted, and the transfer waits for the next. -/
theorem exec_writeData_accepts {s : State} (hx : s.xfer = .writeSectorIn ∨ s.xfer = .writeTrackIn)
    (hd : s.flags.dataRequest = true) (hmore : s.position + 1 < s.used) (hbuf : s.used ≤ s.buf.length) (v : Byte) :
    ∃ t, exec (.writeData v) s = .next t ∧ t.Waiting s.params.byteDelay.polls ∧ Accepts s [v] t := by
  have hdelay := (Delay.polls_bounds s.params.byteDelay).1
  refine ⟨_, exec_writeData_of_more hx hd hmore.ne v, State.waiting_byteDelay (ne_idle_of_writing hx) rfl hdelay, ?_⟩
  exact
    { xfer := rfl
      used := rfl
      position := rfl
      length := List.length_set
      taken := by
        show (s.buf.set s.position v).take (s.position + 1) = _
        rw [List.take_add_one, List.take_set_of_le le_rfl, List.getElem?_set_self (by omega)]
        rfl
      params := rfl
      files := rfl }

/-- Bytes paced by `BYTE_DELAY` drive-port reads are accepted one after the other (70_reset_and_hazards.md R286). -/
theorem runAll_pacedWrites {n : Nat} (bs : List Byte) {s : State}
    (hx : s.xfer = .writeSectorIn ∨ s.xfer = .writeTrackIn) (hn : n = s.params.byteDelay.polls) (hw : s.Waiting n)
    (hroom : s.position + bs.length < s.used) (hbuf : s.used ≤ s.buf.length) :
    ∃ t, runAll (pacedWrites n bs) s = some t ∧ t.Waiting n ∧ Accepts s bs t := by
  induction bs generalizing s with
  | nil => exact ⟨s, rfl, hw, .nil s⟩
  | cons b rest ih =>
    rw [List.length_cons] at hroom
    obtain ⟨t, hpolled, hraised, hkept⟩ :=
      runAll_polls (polls := List.replicate n .readDrivePort) (by simp [isPoll]) hw
    have hrequest : t.flags.dataRequest = true := by simp [hraised.dataRequest]
    have hposition : t.position = s.position := hkept.position
    obtain ⟨u, hexec, hwaiting, haccepted⟩ :=
      exec_writeData_accepts (hkept.xfer.symm ▸ hx) hrequest (by rw [hposition, hkept.used]; omega)
        (by rw [hkept.used, hkept.length]; exact hbuf) b
    have hone : Accepts s [b] u := hkept.trans haccepted
    have hcount : u.position = s.position + 1 := hone.position
    rw [hkept.params, ← hn] at hwaiting
    obtain ⟨r, hrun, hwaiting', hrest⟩ :=
      ih (hone.xfer.symm ▸ hx) (hone.params.symm ▸ hn) hwaiting
        (by rw [hcount, hone.used]; omega) (by rw [hone.used, hone.length]; exact hbuf)
    refine ⟨r, ?_, hwaiting', hone.trans hrest⟩
    rw [pacedWrites, runAll_append_of_some hpolled, runAll_cons_of_next hexec, hrun]

/-- Settles O39: `runAll_pacedWrites` from an empty buffer. -/
theorem pacedBytesFillTheBuffer : Obligations.PacedBytesFillTheBuffer := by
  intro s bs hx hd hdelay hposition hroom hbuf
  have hpolls := (Delay.polls_bounds s.params.byteDelay).1
  have hw := State.waiting_byteDelay (ne_idle_of_writing hx) hd (hdelay ▸ hpolls)
  obtain ⟨t, hrun, hwaiting, haccepted⟩ :=
    runAll_pacedWrites bs hx rfl (hdelay ▸ hw) (by rwa [hposition, Nat.zero_add]) hbuf
  have hcount : t.position = bs.length := by rw [haccepted.position, hposition, Nat.zero_add]
  have htaken := haccepted.taken
  rw [hcount, hposition, List.take_zero, List.nil_append] at htaken
  refine ⟨t, hrun, haccepted.xfer, haccepted.used, hcount, htaken, ?_, haccepted.files⟩
  rw [hwaiting.dataRequest, decide_eq_false (by omega)]

end Sys2Proof.Machine
end

section
/-! Who accesses the images (45_transfer_engine.md R208, 44_type4_command.md R191, 20_memory.md R68): one lemma says what
an instruction can do to the files and to the number of accesses, and the statement is read off it. -/

namespace Sys2Proof.Machine

/-- No image access: the files and the number of accesses are the same in both states. -/
structure ImagesKept (s t : State) : Prop where
  files : t.files = s.files
  ioCount : t.ioCount = s.ioCount

theorem armWriteBody_images (s : State) (m : Xfer) : ImagesKept s (s.armWriteBody m) := by
  rcases s.armWriteBody_cases m with ⟨-, he⟩ | ⟨_, _, -, ⟨-, he⟩ | ⟨-, he⟩⟩ <;> exact he ▸ ⟨rfl, rfl⟩

theorem readAddressBody_images (s : State) : ImagesKept s s.readAddressBody := by
  rcases s.readAddressBody_cases with he | ⟨_, _, -, he⟩ <;> exact he ▸ ⟨rfl, rfl⟩

theorem readTrackBody_images (s : State) : ImagesKept s s.readTrackBody := by
  rcases s.readTrackBody_cases with he | he <;> exact he ▸ ⟨rfl, rfl⟩

theorem streamNext_images (s : State) : ImagesKept s s.streamNext := by
  rcases s.streamNext_cases with ⟨-, he⟩ | ⟨-, -, he⟩ | ⟨-, -, he⟩ <;> rw [he] <;> exact ⟨rfl, rfl⟩

/-- ReadSector's body makes no access, or one that reads (42_type2_commands.md R150). -/
theorem readSectorBody_images (s : State) :
    ImagesKept s s.readSectorBody ∨
      s.readSectorBody.files = s.files ∧ s.readSectorBody.ioCount = s.ioCount + 1 := by
  rcases s.readSectorBody_cases with ⟨_, he⟩ | he | ⟨_, _, _, _, -, -, -, -, he⟩
  · exact .inl (he ▸ ⟨rfl, rfl⟩)
  · exact .inr (he ▸ ⟨rfl, rfl⟩)
  · exact .inr (he ▸ ⟨rfl, rfl⟩)

/-- Of the bodies of the Type II and III commands only ReadSector's makes an access. -/
theorem DataBody.images {k : Command} {body : State → State} (hb : DataBody k body) (s : State) :
    ImagesKept s (body s) ∨
      (∃ b, k = .readSector b) ∧ (body s).files = s.files ∧ (body s).ioCount = s.ioCount + 1 := by
  cases hb with
  | readSector b => exact (readSectorBody_images s).imp_right fun h => ⟨⟨b, rfl⟩, h⟩
  | readSectorMulti | writeSectorMulti => exact .inl ⟨rfl, rfl⟩
  | writeSector | writeTrack => exact .inl (armWriteBody_images s _)
  | readAddress => exact .inl (readAddressBody_images s)
  | readTrack => exact .inl (readTrackBody_images s)

/-- A commit makes no access, or one that writes (42_type2_commands.md R154). -/
theorem commitWriteSector_ioCount (s : State) :
    s.commitWriteSector.ioCount = s.ioCount ∨ s.commitWriteSector.ioCount = s.ioCount + 1 := by
  rcases s.commitWriteSector_cases with ⟨_, he⟩ | ⟨_, _, _, -, -, -, -, ⟨-, he⟩ | ⟨-, he⟩⟩ <;> simp [he]

theorem acceptByte_ioCount (s : State) (v : Byte) :
    (s.acceptByte v).ioCount = s.ioCount ∨ (s.acceptByte v).ioCount = s.ioCount + 1 := by
  unfold State.acceptByte
  split
  · split
    · exact commitWriteSector_ioCount (s.storeByte v)
    · exact .inl rfl
  · exact .inl rfl

theorem putData_ioCount (s : State) (v : Byte) :
    (s.putData v).ioCount = s.ioCount ∨ (s.putData v).ioCount = s.ioCount + 1 := by
  rcases s.putData_cases v with ⟨-, he⟩ | ⟨-, -, he⟩ | ⟨-, -, he⟩
  · exact .inl (he ▸ rfl)
  · exact .inl (he ▸ rfl)
  · exact he ▸ acceptByte_ioCount (s.loadData v) v

/-- All that an instruction can do to the images. -/
inductive ImageAccess (i : Instr) (s t : State) : Prop where
  | none (kept : ImagesKept s t)
  | read (b : Bool) (issued : issues i (.readSector b)) (files : t.files = s.files)
      (counted : t.ioCount = s.ioCount + 1)
  | write (v : Byte) (isWrite : i = .writeData v) (counted : t.ioCount = s.ioCount ∨ t.ioCount = s.ioCount + 1)

theorem typeI_images (s : State) (load : Bool) {body : State → State} (hb : TypeIBody body) :
    ImagesKept s (s.typeI load body) := by
  rcases s.typeI_cases load hb with ⟨-, he⟩ | ⟨-, _, _, _, _, -, he⟩ <;> exact he ▸ ⟨rfl, rfl⟩

theorem command_images {i : Instr} {k : Command} (hi : issues i k) {body : State → State} (hb : DataBody k body)
    (s : State) (side : Bool) : ImageAccess i s (s.command (commandType k) (some side) body) := by
  rcases s.command_cases (commandType k) (some side) body with ⟨-, he⟩ | ⟨-, he⟩
  · exact he ▸ .none ⟨rfl, rfl⟩
  · rw [he]
    rcases hb.images (s.prologue (commandType k) (some side)) with kept | ⟨⟨b, rfl⟩, hfiles, hcounted⟩
    · exact .none { kept with }
    · exact .read b hi hfiles hcounted

theorem Meaning.images {i : Instr} {f : State → State} (hf : Meaning i f) (s : State) : ImageAccess i s (f s) := by
  cases hf with
  | typeI load _ _ hb => exact .none (typeI_images s load hb)
  | data side hi hb => exact command_images hi hb s side
  | readStatus => exact .none (by constructor <;> simp [State.statusTicks])
  | readDrivePort => exact .none (by constructor <;> simp)
  | readData => exact .none { streamNext_images s with }
  | writeData v => exact .write v rfl (putData_ioCount s v)
  | forceInterrupt | readTrackRegister | readSectorRegister | readUnmapped | writeTrackRegister
  | writeSectorRegister | writeDriveSelect | writeUnmapped => exact .none ⟨rfl, rfl⟩

/-- Settles O52: each kind of access names the instruction that makes it. -/
theorem imagesChangeOnlyByDataWrites : Obligations.ImagesChangeOnlyByDataWrites := by
  intro i s t he
  obtain ⟨f, hf, hexec⟩ := exists_meaning i
  obtain rfl : f s = t := Host.Outcome.next.inj ((hexec s).symm.trans he)
  cases hf.images s with
  | none kept => exact ⟨fun _ => kept.files, .inl kept.ioCount, fun hne => absurd kept.ioCount hne⟩
  | read b issued files counted => exact ⟨fun _ => files, .inr counted, fun _ => .inr ⟨b, issued⟩⟩
  | write v isWrite counted => exact ⟨fun hno => absurd isWrite (hno v), counted, fun _ => .inl ⟨v, isWrite⟩⟩

end Sys2Proof.Machine
end

section
/-! The status byte, the drive port and the register ports (46_status_and_ports.md): the bits of the two bytes, what the
four ticks of a read leave, and the counters along any run of polls. -/

namespace Sys2Proof.Machine

/-! The register ports (46_status_and_ports.md R231 to R234, R237). -/

theorem State.addressByte_of_notReady {s : State} (hff : s.params.nrAddrFf = true) (h : s.notReadyMedia = true)
    (v : Byte) : s.addressByte v = 0xFF#8 := by
  simp [State.addressByte, hff, h]

theorem State.addressByte_of_readable {s : State} (h : s.params.nrAddrFf = false ∨ s.notReadyMedia = false)
    (v : Byte) : s.addressByte v = v := by
  rcases h with h | h <;> simp [State.addressByte, h]

theorem State.notReadyMedia_eq_false {s : State} {a : Fin 4} {p : String} (ha : s.activeDrive = some a)
    (hp : (s.drive a).desc.imagePath = some p) (hr : s.readyDelay ≤ 1) : s.notReadyMedia = false :=
  Bool.eq_false_iff.mpr fun h => by simpa [State.readyMedia_of ha hp hr] using State.readyMedia_eq_none.mpr h

theorem exec_readTrackRegister (s : State) :
    exec .readTrackRegister s = .next { s with lastRead := some (s.addressByte s.trackReg) } := rfl

theorem exec_readSectorRegister (s : State) :
    exec .readSectorRegister s = .next { s with lastRead := some (s.addressByte s.sectorReg) } := rfl

/-- Settles O33: the two reads are `addressByte` of their register. -/
theorem addressRegisterReads : Obligations.AddressRegisterReads := by
  refine fun s => ⟨fun ⟨hff, hnotReady⟩ => ?_, fun hreadable => ?_⟩
  · have hbyte := State.addressByte_of_notReady hff (State.notReadyMedia_iff.mpr hnotReady)
    rw [exec_readTrackRegister, exec_readSectorRegister, hbyte, hbyte]
    exact ⟨rfl, rfl⟩
  · have hbyte := State.addressByte_of_readable <|
      hreadable.imp_right fun ⟨_, _, ha, hp, hr⟩ => State.notReadyMedia_eq_false ha hp hr
    rw [exec_readTrackRegister, exec_readSectorRegister, hbyte, hbyte]
    exact ⟨rfl, rfl⟩

/-- Settles O34: no gate stands before the two writes. -/
theorem addressRegisterWrites : Obligations.AddressRegisterWrites := fun _ _ => ⟨rfl, rfl⟩

/-- Settles O35: the read returns a constant, and the write is the identity. -/
theorem unmappedOffsets : Obligations.UnmappedOffsets := fun _ _ => ⟨rfl, rfl⟩

/-! The ticks (46_status_and_ports.md R222 to R225), each as one update of the state. -/

theorem State.tickByte_byteDelay (s : State) :
    s.tickByte.byteDelay =
      if s.xfer ≠ .idle ∧ s.flags.dataRequest = false ∧ s.byteDelay > 1 then s.byteDelay - 1 else s.byteDelay := by
  rcases s.tickByte_cases with ⟨hidle | hraised, he⟩ | ⟨hx, hd, hmore, he⟩ | ⟨-, -, hlast, he⟩
  · simp [he, hidle]
  · simp [he, hraised]
  · simp [he, hx, hd, hmore]
  · simp [he, hlast.not_gt]

theorem State.tickByte_dataRequest (s : State) :
    s.tickByte.flags.dataRequest = (s.flags.dataRequest || decide (s.xfer ≠ .idle ∧ s.byteDelay ≤ 1)) := by
  rcases s.tickByte_cases with ⟨hidle | hraised, he⟩ | ⟨-, hd, hmore, he⟩ | ⟨hx, -, hlast, he⟩
  · simp [he, hidle]
  · simp [he, hraised]
  · simp [he, hd, hmore.not_ge]
  · simp [he, hx, hlast]

theorem State.tickByte_eq (s : State) :
    s.tickByte =
      { s with
        byteDelay :=
          if s.xfer ≠ .idle ∧ s.flags.dataRequest = false ∧ s.byteDelay > 1 then s.byteDelay - 1 else s.byteDelay,
        flags :=
          { s.flags with dataRequest := s.flags.dataRequest || decide (s.xfer ≠ .idle ∧ s.byteDelay ≤ 1) } } := by
  rw [← s.tickByte_byteDelay, ← s.tickByte_dataRequest]
  unfold State.tickByte
  (repeat' split) <;> rfl

@[simp] theorem State.tickByte_interruptRequest (s : State) :
    s.tickByte.flags.interruptRequest = s.flags.interruptRequest := by
  rw [s.tickByte_eq]

theorem State.tickReady_eq (s : State) :
    s.tickReady = { s with readyDelay := if s.readyDelay > 1 then s.readyDelay - 1 else s.readyDelay } := by
  unfold State.tickReady
  split <;> rfl

theorem State.tickBusy_eq (s : State) :
    s.tickBusy =
      { s with
        busyDelay := s.busyDelay - 1,
        flags := { s.flags with interruptRequest := s.flags.interruptRequest || decide (s.busyDelay = 1) } } := by
  rw [← s.tickBusy_flags, ← s.tickBusy_busyDelay]
  unfold State.tickBusy
  (repeat' split) <;> rfl

theorem State.tickIndex_eq (s : State) :
    s.tickIndex =
      { s with
        indexCountdown := if s.indexCountdown ≤ 1 then s.params.indexPeriod.polls else s.indexCountdown - 1,
        indexState := if s.indexCountdown ≤ 1 then !s.indexState else s.indexState } := by
  rw [← s.tickIndex_indexCountdown, ← s.tickIndex_indexState]
  unfold State.tickIndex
  split <;> rfl

/-! The two polls. -/

/-- What a status read leaves (46_status_and_ports.md R227). -/
def State.statusRead (s : State) : State := s.tickByte.statusTicks.returning s.statusByte

/-- What a drive-port read leaves (46_status_and_ports.md R230). -/
def State.drivePortRead (s : State) : State := s.tickByte.tickReady.returning s.tickByte.drivePortByte

/-- Neither layout of the status byte has a bit for what the byte tick changes. -/
theorem State.tickByte_statusByte (s : State) : s.tickByte.statusByte = s.statusByte := by
  rw [s.tickByte_eq]
  rfl

theorem exec_readStatus (s : State) : exec .readStatus s = .next s.statusRead := by
  unfold State.statusRead
  rw [← s.tickByte_statusByte]
  rfl

theorem exec_readDrivePort (s : State) : exec .readDrivePort s = .next s.drivePortRead := rfl

/-- Settles O31: the four ticks one after the other, each reading only what the ticks before it left alone. -/
theorem statusReadTicksAllCounters : Obligations.StatusReadTicksAllCounters := by
  intro s hcount
  refine ⟨_, exec_readStatus s, ?_⟩
  have hfull : s.indexCountdown ≤ 1 ↔ s.indexCountdown = 1 := by omega
  simp only [State.statusRead, State.statusTicks, State.returning, State.tickIndex_eq, State.tickBusy_eq,
    State.tickReady_eq, State.tickByte_eq, hfull]

/-! The status byte (46_status_and_ports.md R226 to R229). -/

theorem State.layoutI_getLsbD (s : State) (j : Nat) :
    s.layoutI.getLsbD j =
      (s.nrBit && decide (j = 7) || s.wpBit && decide (j = 6) || s.flags.headLoaded && decide (j = 5)
        || s.flags.seekError && decide (j = 4) || s.flags.crcError && decide (j = 3)
        || s.track0Bit && decide (j = 2) || s.indexState && decide (j = 1) || s.busyBit && decide (j = 0)) := by
  simp [State.layoutI, flagAt_getLsbD]

theorem State.layoutII_getLsbD (s : State) (j : Nat) :
    s.layoutII.getLsbD j =
      (s.nrBit && decide (j = 7) || s.flags.writeFailProtected && decide (j = 6)
        || s.flags.recordNotFound && decide (j = 4) || s.flags.crcError && decide (j = 3)
        || s.flags.dataLost && decide (j = 2) || s.busyBit && decide (j = 0)) := by
  simp [State.layoutII, flagAt_getLsbD]

theorem State.statusByte_eq_layoutI {s : State} (h : s.lastType = .typeI ∨ s.lastType = .typeIV) :
    s.statusByte = s.layoutI := by
  rcases h with h | h <;> simp [State.statusByte, h]

theorem State.statusByte_eq_layoutII {s : State} (h : s.lastType = .typeII ∨ s.lastType = .typeIII) :
    s.statusByte = s.layoutII := by
  rcases h with h | h <;> simp [State.statusByte, h]

theorem State.wpBit_eq (s : State) :
    s.wpBit = (s.activeDrive.map fun a => (s.drive a).desc.writeProtect).getD false := by
  unfold State.wpBit State.selected
  cases s.activeDrive <;> rfl

theorem State.track0Bit_eq (s : State) :
    s.track0Bit = (s.activeDrive.map fun a => decide ((s.drive a).currentTrack = 0)).getD false := by
  unfold State.track0Bit State.selected
  cases s.activeDrive <;> rfl

/-- Settles O29: the read returns `layoutI`, one flag to each of its eight bits. -/
theorem statusByteTypeI : Obligations.StatusByteTypeI := by
  intro s htype
  refine ⟨_, _, exec_readStatus s, rfl, ?_⟩
  rw [State.statusByte_eq_layoutI htype, ← s.wpBit_eq, ← s.track0Bit_eq]
  simp only [State.layoutI_getLsbD]
  simp [State.nrBit, State.busyBit]

/-- Settles O30: the read returns `layoutII`, one flag to each of six bits. -/
theorem statusByteTypeII : Obligations.StatusByteTypeII := by
  intro s htype
  refine ⟨_, _, exec_readStatus s, rfl, ?_⟩
  rw [State.statusByte_eq_layoutII htype]
  simp only [State.layoutII_getLsbD]
  simp [State.nrBit, State.busyBit]

/-! The drive-port byte (46_status_and_ports.md R230). -/

theorem State.drivePortByte_getLsbD (s : State) (j : Nat) :
    s.drivePortByte.getLsbD j =
      (s.flags.interruptRequest && decide (j = 0) || s.nrBit && decide (j = 1)
        || s.flags.dataRequest && decide (j = 7)) := by
  simp [State.drivePortByte, flagAt_getLsbD]

theorem State.drivePortByte_and_7C (s : State) : s.drivePortByte &&& 0x7C#8 = 0#8 := by
  have hflags : ∀ a b c : Bool, (flagAt a 0 ||| flagAt b 1 ||| flagAt c 7) &&& 0x7C#8 = 0#8 := by decide
  exact hflags _ _ _

/-- Settles O32: the byte is that of the state after the byte tick, and the ready tick comes after it. -/
theorem drivePortReadTicksByteAndReady : Obligations.DrivePortReadTicksByteAndReady := by
  intro s
  refine ⟨_, s.tickByte.drivePortByte, exec_readDrivePort s, ?_, ?_, ?_, State.drivePortByte_and_7C _, ?_⟩
  · rw [State.drivePortByte_getLsbD]
    simp
  · rw [State.drivePortByte_getLsbD]
    simp [State.nrBit]
  · rw [State.drivePortByte_getLsbD, State.tickByte_dataRequest]
    simp
  · simp only [State.drivePortRead, State.returning, State.tickReady_eq, State.tickByte_eq]

/-! The counters after one poll. -/

theorem State.statusRead_readyDelay (s : State) :
    s.statusRead.readyDelay = if s.readyDelay > 1 then s.readyDelay - 1 else s.readyDelay := by
  simp [State.statusRead, State.statusTicks, State.tickReady_readyDelay]

theorem State.drivePortRead_readyDelay (s : State) :
    s.drivePortRead.readyDelay = if s.readyDelay > 1 then s.readyDelay - 1 else s.readyDelay := by
  simp [State.drivePortRead, State.tickReady_readyDelay]

theorem State.statusRead_busyDelay (s : State) : s.statusRead.busyDelay = s.busyDelay - 1 := by
  simp [State.statusRead, State.statusTicks, State.tickBusy_busyDelay]

theorem State.statusRead_interruptRequest (s : State) :
    s.statusRead.flags.interruptRequest = (s.flags.interruptRequest || decide (s.busyDelay = 1)) := by
  simp [State.statusRead, State.statusTicks, State.tickBusy_flags]

theorem State.statusRead_indexCountdown (s : State) :
    s.statusRead.indexCountdown =
      if s.indexCountdown ≤ 1 then s.params.indexPeriod.polls else s.indexCountdown - 1 := by
  simp [State.statusRead, State.statusTicks, State.tickIndex_indexCountdown]

theorem State.statusRead_indexState (s : State) :
    s.statusRead.indexState = if s.indexCountdown ≤ 1 then !s.indexState else s.indexState := by
  simp [State.statusRead, State.statusTicks, State.tickIndex_indexState]

@[simp] theorem State.statusRead_params (s : State) : s.statusRead.params = s.params := by
  simp [State.statusRead, State.statusTicks]

@[simp] theorem State.drivePortRead_params (s : State) : s.drivePortRead.params = s.params := by
  simp [State.drivePortRead]

@[simp] theorem State.drivePortRead_busyDelay (s : State) : s.drivePortRead.busyDelay = s.busyDelay := by
  simp [State.drivePortRead]

@[simp] theorem State.drivePortRead_interruptRequest (s : State) :
    s.drivePortRead.flags.interruptRequest = s.flags.interruptRequest := by
  simp [State.drivePortRead]

@[simp] theorem State.drivePortRead_indexCountdown (s : State) :
    s.drivePortRead.indexCountdown = s.indexCountdown := by
  simp [State.drivePortRead]

@[simp] theorem State.drivePortRead_indexState (s : State) : s.drivePortRead.indexState = s.indexState := by
  simp [State.drivePortRead]

/-! Runs of polls. -/

/-- A property of the number `k` of status reads and the number `n` of polls holds after any sequence of polls, if it
holds at the start and each of the two polls carries it on. -/
theorem runAll_polls_induction {P : Nat → Nat → State → Prop}
    (hstatus : ∀ {k n t}, P k n t → P (k + 1) (n + 1) t.statusRead)
    (hdrive : ∀ {k n t}, P k n t → P k (n + 1) t.drivePortRead)
    {s : State} (hstart : P 0 0 s) {polls : List Instr} (hpolls : ∀ i ∈ polls, isPoll i = true) :
    ∃ t, runAll polls s = some t ∧ P (polls.count .readStatus) polls.length t := by
  induction polls using List.reverseRecOn with
  | nil => exact ⟨s, rfl, hstart⟩
  | append_singleton polls i ih =>
    obtain ⟨hbefore, hlast⟩ := List.forall_mem_append.mp hpolls
    obtain ⟨t, hrun, ht⟩ := ih hbefore
    obtain rfl | rfl : i = .readStatus ∨ i = .readDrivePort := by simpa [isPoll] using hlast
    · refine ⟨t.statusRead, ?_, by simpa using hstatus ht⟩
      rw [runAll_append_of_some hrun, runAll_cons_of_next (exec_readStatus t), runAll]
    · refine ⟨t.drivePortRead, ?_, by simpa [List.count_singleton] using hdrive ht⟩
      rw [runAll_append_of_some hrun, runAll_cons_of_next (exec_readDrivePort t), runAll]

/-! The ready delay (46_status_and_ports.md R223). -/

/-- The ready tick takes one off a count that stops at 1. -/
theorem readyTick_max {r d n : Nat} (h : r = max 1 (d - n)) : (if r > 1 then r - 1 else r) = max 1 (d - (n + 1)) := by
  split <;> omega

/-- Settles O46: every poll makes the ready tick. -/
theorem readyOnTheNthPoll : Obligations.ReadyOnTheNthPoll := by
  intro s polls hpolls hdelay
  exact runAll_polls_induction (P := fun _ n t => t.readyDelay = max 1 (s.readyDelay - n))
    (fun h => (State.statusRead_readyDelay _).trans (readyTick_max h))
    (fun h => (State.drivePortRead_readyDelay _).trans (readyTick_max h))
    (Nat.max_eq_right hdelay).symm hpolls

/-! The hold (46_status_and_ports.md R224). -/

/-- From `s` to `t` the hold has counted `k` status reads. -/
structure HoldCounted (s : State) (k : Nat) (t : State) : Prop where
  busyDelay : t.busyDelay = s.busyDelay - k
  interruptRequest : t.flags.interruptRequest = (s.flags.interruptRequest || decide (s.busyDelay ≤ k))

theorem HoldCounted.zero {s : State} (h : 1 ≤ s.busyDelay) : HoldCounted s 0 s where
  busyDelay := rfl
  interruptRequest := by rw [decide_eq_false (by omega), Bool.or_false]

theorem HoldCounted.statusRead {s t : State} {k : Nat} (h : HoldCounted s k t) :
    HoldCounted s (k + 1) t.statusRead where
  busyDelay := by rw [State.statusRead_busyDelay, h.busyDelay, Nat.sub_sub]
  interruptRequest := by
    have hends : s.busyDelay ≤ k ∨ s.busyDelay - k = 1 ↔ s.busyDelay ≤ k + 1 := by omega
    rw [State.statusRead_interruptRequest, h.interruptRequest, h.busyDelay, Bool.or_assoc, ← Bool.decide_or,
      decide_eq_decide.mpr hends]

theorem HoldCounted.drivePortRead {s t : State} {k : Nat} (h : HoldCounted s k t) :
    HoldCounted s k t.drivePortRead where
  busyDelay := (State.drivePortRead_busyDelay t).trans h.busyDelay
  interruptRequest := (State.drivePortRead_interruptRequest t).trans h.interruptRequest

/-- Settles O45: only the status read makes the busy tick. -/
theorem holdEndsOnTheNthStatusRead : Obligations.HoldEndsOnTheNthStatusRead := by
  intro s polls hpolls hdelay
  obtain ⟨t, hrun, hcounted⟩ := runAll_polls_induction (P := fun k _ t => HoldCounted s k t)
    HoldCounted.statusRead HoldCounted.drivePortRead (HoldCounted.zero hdelay) hpolls
  exact ⟨t, hrun, hcounted.busyDelay, hcounted.interruptRequest⟩

/-! The index (46_status_and_ports.md R225). -/

/-- The last count of a period begins the next one. -/
theorem succ_div_mod_of_last {k p : Nat} (hp : 0 < p) (h : k % p + 1 = p) :
    (k + 1) / p = k / p + 1 ∧ (k + 1) % p = 0 := by
  have hk := Nat.mod_add_div k p
  refine (Nat.div_mod_unique hp).mpr ⟨?_, hp⟩
  rw [Nat.mul_succ]
  omega

/-- A count before the last of a period stays in it. -/
theorem succ_div_mod_of_more {k p : Nat} (h : k % p + 1 < p) :
    (k + 1) / p = k / p ∧ (k + 1) % p = k % p + 1 := by
  have hk := Nat.mod_add_div k p
  exact (Nat.div_mod_unique (by omega)).mpr ⟨by omega, h⟩

/-- One more toggle turns the bit over. -/
theorem not_bne_odd (b : Bool) (q : Nat) : (!(b != decide (q % 2 = 1))) = (b != decide ((q + 1) % 2 = 1)) := by
  have hodd : decide ((q + 1) % 2 = 1) = !decide (q % 2 = 1) := by
    rw [← decide_not]
    exact decide_eq_decide.mpr (by omega)
  rw [hodd, Bool.bne_not]

/-- From `s`, where the countdown was full, to `t` the index has counted `k` status reads. -/
structure IndexCounted (s : State) (k : Nat) (t : State) : Prop where
  params : t.params = s.params
  indexState : t.indexState = (s.indexState != decide (k / s.params.indexPeriod.polls % 2 = 1))
  indexCountdown : t.indexCountdown = s.params.indexPeriod.polls - k % s.params.indexPeriod.polls

theorem IndexCounted.zero {s : State} (h : s.indexCountdown = s.params.indexPeriod.polls) : IndexCounted s 0 s where
  params := rfl
  indexState := by simp
  indexCountdown := by rw [h, Nat.zero_mod, Nat.sub_zero]

theorem IndexCounted.statusRead {s t : State} {k : Nat} (h : IndexCounted s k t) :
    IndexCounted s (k + 1) t.statusRead := by
  obtain ⟨hparams, hstate, hcount⟩ := h
  have hp := (Delay.polls_bounds s.params.indexPeriod).1
  have hlt := Nat.mod_lt k hp
  by_cases hlast : t.indexCountdown ≤ 1
  · obtain ⟨hdiv, hmod⟩ := succ_div_mod_of_last (k := k) hp (by omega)
    refine ⟨t.statusRead_params.trans hparams, ?_, ?_⟩
    · rw [State.statusRead_indexState, if_pos hlast, hstate, hdiv, not_bne_odd]
    · rw [State.statusRead_indexCountdown, if_pos hlast, hparams, hmod, Nat.sub_zero]
  · obtain ⟨hdiv, hmod⟩ := succ_div_mod_of_more (k := k) (p := s.params.indexPeriod.polls) (by omega)
    refine ⟨t.statusRead_params.trans hparams, ?_, ?_⟩
    · rw [State.statusRead_indexState, if_neg hlast, hstate, hdiv]
    · rw [State.statusRead_indexCountdown, if_neg hlast, hcount, hmod, Nat.sub_sub]

theorem IndexCounted.drivePortRead {s t : State} {k : Nat} (h : IndexCounted s k t) :
    IndexCounted s k t.drivePortRead where
  params := t.drivePortRead_params.trans h.params
  indexState := t.drivePortRead_indexState.trans h.indexState
  indexCountdown := t.drivePortRead_indexCountdown.trans h.indexCountdown

/-- Settles O47: only the status read makes the index tick. -/
theorem indexTogglesEveryPeriod : Obligations.IndexTogglesEveryPeriod := by
  intro s polls hpolls hfull
  obtain ⟨t, hrun, hcounted⟩ := runAll_polls_induction (P := fun k _ t => IndexCounted s k t)
    IndexCounted.statusRead IndexCounted.drivePortRead (IndexCounted.zero hfull) hpolls
  exact ⟨t, hrun, hcounted.indexState, hcounted.indexCountdown⟩

end Sys2Proof.Machine
end

section
/-! The host's actions and the two resets (60_exceptions.md R271, R272; 70_reset_and_hazards.md R280, R281): what the
step does with each host event, and what the action leaves of the drives and of the files. -/

namespace Sys2Proof.Machine

/-! The step on a host event. -/

section
variable {s : State} {rest : List Event}

theorem step_of_pending_mount {a : Fin 4} {d : Descriptor} (h : s.pending = .mount a d :: rest) :
    step s = hostMount a d { s with pending := rest } := by
  simp only [step, fetch_of_pending_cons h]

theorem step_of_pending_unmount {a : Fin 4} (h : s.pending = .unmount a :: rest) :
    step s = .next ({ s with pending := rest }.unmounted a) := by
  simp only [step, fetch_of_pending_cons h]

theorem step_of_pending_hostFile {p : String} {c : Option (List Byte)} (h : s.pending = .hostFile p c :: rest) :
    step s = .next ({ s with pending := rest }.hostFile p c) := by
  simp only [step, fetch_of_pending_cons h]

theorem step_of_pending_hardReset (h : s.pending = .hardReset :: rest) :
    step s = .next { s with pending := rest }.hardReset := by
  simp only [step, fetch_of_pending_cons h]

end

/-! The contents of a file the host gives. -/

theorem cellsRead_cellsOfBytes (bs : List Byte) (k i : Nat) :
    cellsRead (cellsOfBytes k bs) (k + i) = bs.getD i blankByte := by
  induction bs generalizing k i with
  | nil => rfl
  | cons b bs ih =>
    cases i with
    | zero =>
      have hbelow : ∀ c ∈ cellsOfBytes (k + 1) bs, k < c.1 := fun c hc => (mem_cellsOfBytes hc).1
      by_cases hb : b = blankByte
      · simp [cellsOfBytes, hb, cellsRead_of_below hbelow]
      · simp [cellsOfBytes, hb, cellsRead]
    | succ i =>
      have htail : cellsRead (cellsOfBytes (k + 1) bs) (k + (i + 1)) = bs.getD i blankByte := by
        rw [← ih (k + 1) i, Nat.add_right_comm, Nat.add_assoc]
      by_cases hb : b = blankByte
      · simpa [cellsOfBytes, hb] using htail
      · simpa [cellsOfBytes, hb, cellsRead] using htail

@[simp] theorem Memory.ofBytes_size (bs : List Byte) : (Memory.ofBytes bs).size = bs.length := rfl

theorem Memory.read_ofBytes (bs : List Byte) (a : Nat) : (Memory.ofBytes bs).read a = bs.getD a blankByte := by
  simpa [Memory.read, Memory.ofBytes] using cellsRead_cellsOfBytes bs 0 a

theorem filesFind_filesDrop (fs : List ImageFile) (p q : String) :
    filesFind (filesDrop fs p) q = if q = p then none else filesFind fs q := by
  induction fs with
  | nil => simp [filesDrop, filesFind]
  | cons f rest ih =>
    by_cases hdropped : f.path = p
    · have hdrop : filesDrop (f :: rest) p = filesDrop rest p := by simp [filesDrop, hdropped]
      rw [hdrop, ih, filesFind]
      by_cases hq : q = p
      · rw [if_pos hq, if_pos hq]
      · rw [if_neg hq, if_neg hq, if_neg (fun h => hq (h.symm.trans hdropped))]
    · have hdrop : filesDrop (f :: rest) p = f :: filesDrop rest p := by simp [filesDrop, hdropped]
      rw [hdrop, filesFind, filesFind, ih]
      by_cases hfound : f.path = q
      · rw [if_pos hfound, if_pos hfound, if_neg (fun h => hdropped (hfound.trans h))]
      · rw [if_neg hfound, if_neg hfound]

theorem State.hostFile_fileByte (s : State) (p q : String) (c : Option (List Byte)) (a : Nat) :
    (s.hostFile p c).fileByte q a = if q = p then c.bind (fun bs => bs[a]?) else s.fileByte q a := by
  cases c with
  | none =>
    simp only [State.fileByte, State.hostFile, filesFind_filesDrop]
    by_cases hq : q = p
    · simp [hq]
    · simp [hq]
  | some bs =>
    simp only [State.fileByte, State.hostFile, filesFind_filesPut]
    by_cases hq : q = p
    · by_cases ha : a < bs.length
      · simp [hq, Memory.read_ofBytes, ha]
      · simp [hq, ha]
    · simp [hq]

/-- Settles O10: what any file reads as after the action, at the path itself and at every other one. -/
theorem hostFileReplacesOneFile : Obligations.HostFileReplacesOneFile := by
  intro s p c rest h
  refine ⟨_, step_of_pending_hostFile h, by cases c <;> rfl, fun a => ?_, fun q a hq => ?_⟩
  · rw [State.hostFile_fileByte, if_pos rfl]
  · rw [State.hostFile_fileByte, if_neg hq]
    rfl

/-! Mount and unmount. -/

theorem hostMount_of_wellFormed {d : Descriptor} (h : d.wellFormed = true) (a : Fin 4) (s : State) :
    hostMount a d s = .next (s.mounted a d) := by
  simp only [hostMount, h, if_true]

theorem hostMount_of_illFormed {d : Descriptor} (h : d.wellFormed = false) (a : Fin 4) (s : State) :
    hostMount a d s = .refused .mountPrecondition := by
  simp only [hostMount, h, Bool.false_eq_true, if_false]

theorem State.unmounted_drive_self (s : State) (a : Fin 4) :
    (s.unmounted a).drive a = { s.drive a with desc := { (s.drive a).desc with imagePath := none } } := by
  simp [State.unmounted, State.drive]

theorem State.unmounted_drive_of_ne (s : State) {a b : Fin 4} (h : b ≠ a) : (s.unmounted a).drive b = s.drive b :=
  Vector.getElem_set_ne a.isLt b.isLt fun hab => h (Fin.ext hab.symm)

/-- Settles O9: the precondition decides whether a mount acts, and an unmount writes the one slot. -/
theorem mountReplacesOneSlot : Obligations.MountReplacesOneSlot := by
  refine fun s a d rest => ⟨fun h hd => ?_, fun h hd => ?_, fun h => ⟨_, step_of_pending_unmount h, rfl, ?_, ?_⟩⟩
  · rw [step_of_pending_mount h, hostMount_of_wellFormed hd]
    rfl
  · rw [step_of_pending_mount h, hostMount_of_illFormed hd]
  · exact State.unmounted_drive_self _ a
  · exact fun b hb => State.unmounted_drive_of_ne _ hb

/-! The resets. -/

theorem State.hardReset_atReset (s : State) : s.hardReset.AtReset where
  trackReg := rfl
  activeDrive := rfl
  sectorReg := rfl
  dataReg := rfl
  side := rfl
  stepDirection := rfl
  flags := ⟨rfl, rfl, rfl, rfl, rfl, rfl, rfl, rfl, rfl⟩
  readyDelay := rfl
  busyDelay := rfl
  byteDelay := rfl
  indexCountdown := rfl
  indexState := rfl
  xfer := rfl
  position := rfl
  used := rfl
  raCounter := rfl
  lastType := rfl

/-- A hard reset finds nothing to change in the state at system start. -/
theorem State.reset_hardReset : State.reset.hardReset = State.reset := rfl

theorem State.reset_drive (a : Fin 4) :
    State.reset.drive a = { desc := Descriptor.unmounted, currentTrack := 0 } := by
  simp [State.drive, State.reset]

/-- Settles O11: the reset puts the record at its values, whatever the state was. -/
theorem hardResetRestoresResetValues : Obligations.HardResetRestoresResetValues :=
  fun _ _ h => ⟨_, step_of_pending_hardReset h, State.hardReset_atReset _, rfl, rfl, rfl, rfl, rfl, rfl⟩

/-- Settles O12: the record is as a hard reset leaves it, and no mount has filled a slot. -/
theorem systemStartValues : Obligations.SystemStartValues := by
  refine ⟨?_, fun a => ?_⟩
  · rw [← State.reset_hardReset]
    exact State.hardReset_atReset _
  · rw [State.reset_drive]
    exact ⟨rfl, rfl⟩

end Sys2Proof.Machine
end

section
/-! The faults of the write commands and the interrupt request (60_exceptions.md R251, R252, R258). -/

namespace Sys2Proof.Machine

/-! The checks of an armed write (42_type2_commands.md R152, 43_type3_commands.md R174). -/

theorem State.armWriteBody_of_notReady {s : State} (h : s.readyMedia = none) (mode : Xfer) :
    s.armWriteBody mode = s.raise .notReady := by
  simp only [State.armWriteBody, h]

theorem State.armWriteBody_of_protected {s : State} {d : Drive} {p : String} (hmedia : s.readyMedia = some (d, p))
    (hprotect : d.desc.writeProtect = true) (mode : Xfer) : s.armWriteBody mode = s.raise .writeProtected := by
  simp only [State.armWriteBody, hmedia, hprotect, if_true]

/-- Both write commands end with the fault that arming raises after the prologue. -/
theorem exec_write_of_fault {s : State} (hidle : s.flags.busy = false) {side : Bool} {f : CommandFault}
    (hraise : ∀ t mode,
      (s.prologue t (some side)).armWriteBody mode = (s.prologue t (some side)).raise f) :
    exec (.writeSector side) s = .next (commandFailed s .typeII side (f.record Indicators.clear)) ∧
      exec (.writeTrack side) s = .next (commandFailed s .typeIII side (f.record Indicators.clear)) := by
  have hfailed (t : CommandType) (mode : Xfer) :
      (s.prologue t (some side)).armWriteBody mode = commandFailed s t side (f.record Indicators.clear) :=
    (hraise t mode).trans (s.prologue_raise t side f)
  refine ⟨?_, ?_⟩
  · exact ((DataBody.writeSector side).exec_of_idle hidle).trans (congrArg _ (hfailed ..))
  · exact ((DataBody.writeTrack side).exec_of_idle hidle).trans (congrArg _ (hfailed ..))

/-- Settles O24: the prologue changes nothing the two checks look at. -/
theorem writeCommandFaults : Obligations.WriteCommandFaults := by
  refine fun side s hidle => ⟨fun hnotReady => ?_, fun a p hdrive hpath hready hprotect => ?_⟩
  · have hmedia : s.readyMedia = none := State.readyMedia_eq_none.mpr (State.notReadyMedia_iff.mpr hnotReady)
    exact exec_write_of_fault hidle (f := .notReady) fun _ => State.armWriteBody_of_notReady hmedia
  · have hmedia : s.readyMedia = some (s.drive a, p) := State.readyMedia_of hdrive hpath hready
    exact exec_write_of_fault hidle (f := .writeProtected) fun _ => State.armWriteBody_of_protected hmedia hprotect

/-! What keeps the interrupt request (60_exceptions.md R258): every operation that is no accepted command leaves it or
raises it. -/

theorem State.streamNext_interruptRequest {s : State} (h : s.flags.interruptRequest = true) :
    s.streamNext.flags.interruptRequest = true := by
  rcases s.streamNext_cases with ⟨-, he⟩ | ⟨-, -, he⟩ | ⟨-, -, he⟩
  · rwa [he]
  · exact he ▸ h
  · exact he ▸ rfl

theorem State.commitWriteSector_interruptRequest (s : State) :
    s.commitWriteSector.flags.interruptRequest = true := by
  rcases s.commitWriteSector_cases with ⟨_, he⟩ | ⟨_, _, _, -, -, -, -, ⟨-, he⟩ | ⟨-, he⟩⟩ <;> exact he ▸ rfl

theorem State.acceptByte_interruptRequest {s : State} (h : s.flags.interruptRequest = true) (v : Byte) :
    (s.acceptByte v).flags.interruptRequest = true := by
  unfold State.acceptByte
  split
  · split
    · exact State.commitWriteSector_interruptRequest _
    · rfl
  · exact h

theorem State.putData_interruptRequest {s : State} (h : s.flags.interruptRequest = true) (v : Byte) :
    (s.putData v).flags.interruptRequest = true := by
  rcases s.putData_cases v with ⟨-, he⟩ | ⟨-, -, he⟩ | ⟨-, -, he⟩
  · exact he ▸ h
  · exact he ▸ h
  · exact he ▸ State.acceptByte_interruptRequest (s := s.loadData v) h v

/-- ForceInterrupt on a busy block keeps the request (44_type4_command.md R190). -/
theorem State.forceInterrupt_interruptRequest_of_busy {s : State} (hbusy : s.flags.busy = true) :
    s.forceInterrupt.flags.interruptRequest = s.flags.interruptRequest := by
  show (forcedIndicators s.flags).interruptRequest = _
  rw [forcedIndicators_of_busy hbusy]

/-- An instruction keeps the request, or is a command that the busy gate lets through. -/
theorem Meaning.interruptRequest {i : Instr} {f : State → State} (hf : Meaning i f) {s : State}
    (h : s.flags.interruptRequest = true) :
    (f s).flags.interruptRequest = true ∨ (s.flags.busy = false ∧ ∃ k, issues i k) := by
  cases hf with
  | @typeI _ k _ load issued _ isBody =>
    rcases s.typeI_cases load isBody with ⟨-, he⟩ | ⟨hidle, -⟩
    · exact .inl (by simpa [he] using h)
    · exact .inr ⟨hidle, k, issued⟩
  | @data _ k body side issued _ =>
    rcases s.command_cases (commandType k) (some side) body with ⟨-, he⟩ | ⟨hidle, -⟩
    · exact .inl (by simpa [he] using h)
    · exact .inr ⟨hidle, k, issued⟩
  | forceInterrupt issued =>
    cases hbusy : s.flags.busy with
    | true => exact .inl ((State.forceInterrupt_interruptRequest_of_busy hbusy).trans h)
    | false => exact .inr ⟨rfl, _, issued⟩
  | readStatus => exact .inl (by simp [State.statusTicks, State.tickBusy_flags, h])
  | readDrivePort => exact .inl (by simp [h])
  | readData => exact .inl (State.streamNext_interruptRequest h)
  | writeData v => exact .inl (State.putData_interruptRequest h v)
  | readTrackRegister | readSectorRegister | readUnmapped | writeTrackRegister | writeSectorRegister
  | writeDriveSelect | writeUnmapped => exact .inl h

/-- Settles O49: `Meaning.interruptRequest`, for the meaning of the instruction. -/
theorem interruptClearedOnlyByAcceptedCommands : Obligations.InterruptClearedOnlyByAcceptedCommands := by
  intro i s t hraised hexec hcleared
  obtain ⟨f, hf, hmeaning⟩ := exists_meaning i
  obtain rfl : f s = t := Host.Outcome.next.inj ((hmeaning s).symm.trans hexec)
  exact (hf.interruptRequest hraised).resolve_left (by simp [hcleared])

end Sys2Proof.Machine
end
